-- ==== Sys2Proof/Word.lean ====
section
/-! DEFINITION. The widths of the block: a character code (CHAR_W = 8 bits, 00_scope.md R5 and R10), a nibble
(4 bits, R6), and a string of characters (R10). -/

namespace Sys2Proof

/-- One character: a CHAR_W-bit code, read as ASCII (00_scope.md R10; CHAR_W = 8, R5). -/
abbrev Byte := BitVec 8

/-- One nibble or one output group: 4 bits (00_scope.md R6, R9). -/
abbrev Nibble := BitVec 4

/-- A string: its characters from index 0, the leftmost (00_scope.md R8, R10). The bound LMAX on its length is
checked in WellFormed.lean, because LMAX is a parameter of the block. -/
abbrev Str := List Byte

/-- The character codes of a literal string (00_scope.md R10). -/
def ascii (s : String) : Str := s.toList.map fun c => BitVec.ofNat 8 c.toNat

end Sys2Proof
end

