-- ==== Sys2Proof/Syntax.lean ====
section
/-! DEFINITION. The operations (30_encoding.md R70, one constructor per row of the table), the operand record the
host presents (10_state.md R25), and the result record an operation hands back (R26) with its STATUS (60_exceptions.md
R190). -/

namespace Sys2Proof

/-- The platforms `plat` can select (30_encoding.md R61). -/
inductive Platform where
  | nes
  | gb
  | gear
  | reserved
  deriving DecidableEq, Repr

/-- The directions `dir` can select (30_encoding.md R62). -/
inductive Direction where
  | decode
  | encode
  deriving DecidableEq, Repr

/-- The operand record (10_state.md R25). A field an operation does not read has no effect on it. -/
structure Operands where
  cmd : BitVec 3
  code : Str
  addrStr : Str
  valStr : Str
  condPresent : Bool
  condStr : Str
  ramOptin : Bool
  deriving DecidableEq, Repr

/-- The outcomes of an operation (60_exceptions.md R190). Code 7 is never produced, so it has no constructor. -/
inductive Status where
  | success
  | invalidLength
  | invalidSymbol
  | notHexadecimal
  | invalidDigit
  | notSupported
  | ramTargetDeclined
  deriving DecidableEq, Repr, Inhabited

/-- The result record (10_state.md R26). The derived bit `invalid` and the text forms of the patch are views of these
fields (Machine/Flags.lean, Machine/Operands.lean). -/
structure Result where
  status : Status
  addr : BitVec 16
  value : BitVec 8
  condValid : Bool
  condition : BitVec 8
  noOp : Bool
  invalidSymbols : Bool
  replacementCode : Option Str
  ramTargeted : Bool
  parityMismatch : Bool
  correctedCode : Option Str
  displayCode : Option Str
  primaryCode : Option Str
  siblingCode : Option Str
  deriving DecidableEq, Repr, Inhabited

/-- The operations, one constructor per row of the table, each with the operands it reads (30_encoding.md R70). -/
inductive Instr where
  | nesdec6 (code : Str)
  | nesdec8 (code : Str)
  | nesenc6 (addr value : Str)
  | nesenc8 (addr value cond : Str)
  | gbdec6 (code : Str) (optin : Bool)
  | gbdec9 (code : Str) (optin : Bool)
  | gbenc
  | geardec6 (code : Str) (optin : Bool)
  | geardec9 (code : Str) (optin : Bool)
  | gearenc
  | rsvddec
  | rsvdenc
  deriving DecidableEq, Repr

end Sys2Proof
end

