-- ==== Sys2Proof/Config.lean ====
section
/-! DEFINITION. What one instance of the block fixes (the two OPEN parameters of 92_eei_decisions.md, 00_scope.md R5) and
the free values that stand for what the spec leaves unspecified (10_state.md R27, R221; 60_exceptions.md R198). -/

namespace Sys2Proof

/-- The two OPEN parameters (00_scope.md R5; 92_eei_decisions.md D6, D7, D21). They stand in State, never change, and
every statement about all states holds for every value of them (log entry 5). -/
structure Params where
  /-- LMAX: the capacity of every string operand and string result, in characters. -/
  lmax : Nat
  /-- Whether the length check precedes the symbol and hex checks. -/
  lengthBeforeSymbol : Bool
  deriving DecidableEq, Repr

/-- The constraint on LMAX: at least 11 (00_scope.md R5). -/
abbrev Params.wf (p : Params) : Prop := 11 ≤ p.lmax

/-- The default values of the OPEN parameters (00_scope.md R5). -/
def Config.defaultParams : Params := { lmax := 16, lengthBeforeSymbol := true }

/-- FREE VALUE (DESIGN CHOICE, log entry 4): the n-th draw of a whole result record, of which a meaning takes only the
fields the spec calls unspecified. It has no body, so nothing can be proved of what it holds. -/
opaque Config.freeResult : Nat → Result

end Sys2Proof
end

