-- ==== Sys2Proof/Decode.lean ====
section
/-! DEFINITION. The decoder of operations: from an operand record to the operation it selects (30_encoding.md R60 to R63),
total, rejecting by name the records that select no variant; the encoder, from an operation to the record that
presents it; and the capacity of the ports (70_reset_and_hazards.md R222, R227). -/

namespace Sys2Proof

/-- The separator DASH, 0x2D (00_scope.md R5). -/
def dash : Byte := 0x2D#8

/-- `strip`: every dash removed, the order of the others kept (40_common_logic.md R100). -/
def strip (s : Str) : Str := s.filter fun ch => ch != dash

/-- `plat = CMD[2:1]` (30_encoding.md R60, R61). -/
def platformOf (cmd : BitVec 3) : Platform :=
  match (cmd.extractLsb' 1 2).toNat with
  | 0 => .nes
  | 1 => .gb
  | 2 => .gear
  | _ => .reserved

/-- `dir = CMD[0]` (30_encoding.md R60, R62). -/
def directionOf (cmd : BitVec 3) : Direction := if cmd.getLsbD 0 then .encode else .decode

/-- Why a record selects no variant (30_encoding.md R63, the rows "no variant"). -/
inductive DecodeError where
  /-- CMD = 000 with `len(CODE)` neither 6 nor 8. -/
  | nesNoVariant
  /-- CMD = 010 or 100 with a stripped length neither 6 nor 9. -/
  | hexNoVariant
  deriving DecidableEq, Repr

/-- The variant an operand record selects (30_encoding.md R63). -/
def decode (r : Operands) : Except DecodeError Instr :=
  match platformOf r.cmd, directionOf r.cmd with
  | .nes, .decode =>
    if r.code.length = 6 then .ok (.nesdec6 r.code)
    else if r.code.length = 8 then .ok (.nesdec8 r.code)
    else .error .nesNoVariant
  | .nes, .encode =>
    if r.condPresent then .ok (.nesenc8 r.addrStr r.valStr r.condStr)
    else .ok (.nesenc6 r.addrStr r.valStr)
  | .gb, .decode =>
    if (strip r.code).length = 6 then .ok (.gbdec6 r.code r.ramOptin)
    else if (strip r.code).length = 9 then .ok (.gbdec9 r.code r.ramOptin)
    else .error .hexNoVariant
  | .gb, .encode => .ok .gbenc
  | .gear, .decode =>
    if (strip r.code).length = 6 then .ok (.geardec6 r.code r.ramOptin)
    else if (strip r.code).length = 9 then .ok (.geardec9 r.code r.ramOptin)
    else .error .hexNoVariant
  | .gear, .encode => .ok .gearenc
  | .reserved, .decode => .ok .rsvddec
  | .reserved, .encode => .ok .rsvdenc

/-- The string fits a port of the block (00_scope.md R10; 70_reset_and_hazards.md R227). -/
def Str.fits (p : Params) (s : Str) : Bool := decide (s.length ≤ p.lmax)

/-- Every string field the selected operation reads fits its port (70_reset_and_hazards.md R222: "every operand field an
operation reads"). -/
def Operands.presentable (p : Params) (r : Operands) : Bool :=
  match platformOf r.cmd, directionOf r.cmd with
  | .nes, .decode => Str.fits p r.code
  | .nes, .encode => Str.fits p r.addrStr && Str.fits p r.valStr && (!r.condPresent || Str.fits p r.condStr)
  | .gb, .decode => Str.fits p r.code
  | .gb, .encode => true
  | .gear, .decode => Str.fits p r.code
  | .gear, .encode => true
  | .reserved, .decode => true
  | .reserved, .encode => true

/-- The record with the given command and every other field empty or 0. -/
def Operands.bare (cmd : BitVec 3) : Operands :=
  { cmd := cmd, code := [], addrStr := [], valStr := [], condPresent := false, condStr := [], ramOptin := false }

/-- The record that presents an operation, by the CMD column of 30_encoding.md R70; a field the operation does not read
is empty or 0. -/
def encode : Instr → Operands
  | .nesdec6 code => { Operands.bare 0b000#3 with code := code }
  | .nesdec8 code => { Operands.bare 0b000#3 with code := code }
  | .nesenc6 addr value => { Operands.bare 0b001#3 with addrStr := addr, valStr := value }
  | .nesenc8 addr value cond =>
    { Operands.bare 0b001#3 with addrStr := addr, valStr := value, condPresent := true, condStr := cond }
  | .gbdec6 code optin => { Operands.bare 0b010#3 with code := code, ramOptin := optin }
  | .gbdec9 code optin => { Operands.bare 0b010#3 with code := code, ramOptin := optin }
  | .gbenc => Operands.bare 0b011#3
  | .geardec6 code optin => { Operands.bare 0b100#3 with code := code, ramOptin := optin }
  | .geardec9 code optin => { Operands.bare 0b100#3 with code := code, ramOptin := optin }
  | .gearenc => Operands.bare 0b101#3
  | .rsvddec => Operands.bare 0b110#3
  | .rsvdenc => Operands.bare 0b111#3

/-- The operand record that goes with a bare command word of the opcode table (DESIGN CHOICE, log entry 2): the table
gives the operands no bits, so every operand digit is its alphabet's zero-symbol (`A` of nibble 0000 for NES, `0` for
hex digits), at the shortest variant's length, with no condition, and with the RAM opt-in given, so that the
operation runs to its end. CMD has three wires: higher bits of `w` do not exist. -/
def wordOperands (w : Nat) : Operands :=
  let cmd := BitVec.ofNat 3 w
  { cmd := cmd
    code := if platformOf cmd = .nes then List.replicate 6 0x41#8 else List.replicate 6 0x30#8
    addrStr := List.replicate 4 0x30#8
    valStr := List.replicate 2 0x30#8
    condPresent := false
    condStr := []
    ramOptin := true }

/-- The operation the decoder reads from a word of spec/opcode_table.json, whose bits are CMD alone. Two rows with the
same word (NESDEC6 and NESDEC8, for one) are told apart by their operands only (30_encoding.md R63). -/
def decodeTableWord (_nbits w : Nat) : Option Instr :=
  match decode (wordOperands w) with
  | .ok i => some i
  | .error _ => none

end Sys2Proof
end

