-- ==== Sys2Proof/Machine/State.lean ====
section
/-! DEFINITION. The state: the alphabet lookup RAM (10_state.md R20), which is all the block holds from one operation to the
next, the result record the host reads (R26), what the host has lined up to present, the OPEN parameters, and the
counter of free values. INVENTORY.md, '## State', lists every field. -/

namespace Sys2Proof.Machine

/-- One thing the host does to the block: present an operand record, or pulse reset between two operations
(70_reset_and_hazards.md section 4). -/
inductive HostInput where
  | op (r : Operands)
  | reset
  deriving DecidableEq, Repr

/-- The contents of the lookup RAM as listed cells, address and character (20_memory.md R40). Its canonical form is
`Memory.wf` (Machine/Ops.lean): an unlisted address reads as its reset contents. -/
abbrev Memory := List Host.Cell

structure State where
  /-- The lookup RAM, LUT addresses 0 to 31 (20_memory.md R40, R46). -/
  lut : Memory
  /-- The result record of the last operation (10_state.md R26). -/
  result : Result
  /-- Whether an operation has completed since reset, that is whether the host may read `result`
  (70_reset_and_hazards.md R221). The model's own (log entry 3). -/
  completed : Bool
  /-- What the host will present, oldest first; the block itself has no queue (10_state.md R31). The model's own (log
  entry 1). -/
  hostInputs : List HostInput
  /-- The OPEN parameters of this instance (00_scope.md R5). The model's own (log entry 5). -/
  params : Params
  /-- How many free values have been drawn. The model's own (log entry 4). -/
  draw : Nat
  deriving DecidableEq, Repr

/-- Why the machine stops with a fault: never. The block has no behaviour of kind fault or stuck
(93_implementation_defined.md Part 1; 41_nes_decode.md R120, 42_nes_encode.md R140, 43_hex_decode.md R167). -/
inductive Fault where
  deriving DecidableEq, Repr

/-- Why the model gives no next state. -/
inductive Refusal where
  /-- Raised by an arm of exec whose operation has no meaning yet; no arm raises it now. Safe. -/
  | notModelled (mnemonic : String)
  /-- Raised by step when a string the operation reads is longer than LMAX, which the host cannot present
  (70_reset_and_hazards.md R227; 93_implementation_defined.md U11: "refuse: such an input cannot be presented").
  Safe: nothing is claimed of such an input (log entry 6). -/
  | operandOverCapacity
  deriving DecidableEq, Repr

/-- The value `result` is given at reset, where the spec gives none (DESIGN CHOICE, log entry 3): every field 0 or
absent. No statement reads it, since `completed` is false. -/
def State.resetResult : Result :=
  { status := .success, addr := 0#16, value := 0#8, condValid := false, condition := 0#8, noOp := false,
    invalidSymbols := false, replacementCode := none, ramTargeted := false, parityMismatch := false,
    correctedCode := none, displayCode := none, primaryCode := none, siblingCode := none }

/-- The machine right after reset (10_state.md R32; 70_reset_and_hazards.md R220, R221): no listed cell, so the lookup RAM
reads as its reset contents; nothing presented; the default parameters. -/
def State.reset : State :=
  { lut := [], result := State.resetResult, completed := false, hostInputs := [],
    params := Config.defaultParams, draw := 0 }

end Sys2Proof.Machine
end

