-- ==== Sys2Proof/Machine/Ops.lean ====
section
/-! DEFINITION. The named operations over the lookup RAM (20_memory.md R40 to R46), ending an operation with success or with
an error (60_exceptions.md R197, R198), and the reset signal (70_reset_and_hazards.md R220). There is no return from an
error: nothing is saved, so nothing is restored (R203). -/

namespace Sys2Proof.Machine

/-! ## The lookup RAM -/

/-- The alphabet tables the T bit of a LUT address selects (20_memory.md R40). -/
inductive Table where
  | nes
  | hex
  deriving DecidableEq, Repr

/-- The reset contents of ALPHA_NES, `APZLGITYEOXUKSVN` (10_state.md R21, ASCII row). -/
def alphaNes : List Byte :=
  [0x41, 0x50, 0x5A, 0x4C, 0x47, 0x49, 0x54, 0x59, 0x45, 0x4F, 0x58, 0x55, 0x4B, 0x53, 0x56, 0x4E]

/-- The reset contents of ALPHA_HEX, `0123456789ABCDEF` (10_state.md R22, ASCII row). -/
def alphaHex : List Byte :=
  [0x30, 0x31, 0x32, 0x33, 0x34, 0x35, 0x36, 0x37, 0x38, 0x39, 0x41, 0x42, 0x43, 0x44, 0x45, 0x46]

/-- What an unlisted LUT address reads as: its reset contents (20_memory.md R46). -/
def Memory.resetContents (a : Nat) : Byte := (alphaNes ++ alphaHex).getD a 0#8

/-- The listed cell at an address, if any. -/
def Memory.lookup : Memory → Nat → Option Byte
  | [], _ => none
  | (k, v) :: rest, a => if k = a then some v else Memory.lookup rest a

/-- `MemRead(addr, 1)`: one entry of the LUT space; every 5-bit address exists (20_memory.md R40, R45). -/
def Memory.read (m : Memory) (a : BitVec 5) : Byte := (m.lookup a.toNat).getD (Memory.resetContents a.toNat)

/-- The canonical form above an address bound: addresses from `lo` on, strictly rising, below 32, no entry equal to what
its address reads as when unlisted. -/
def Memory.wfFrom : Nat → Memory → Bool
  | _, [] => true
  | lo, (k, v) :: rest =>
    decide (lo ≤ k) && decide (k < 32) && v != Memory.resetContents k && Memory.wfFrom (k + 1) rest

/-- The canonical form of the lookup RAM. -/
def Memory.wf (m : Memory) : Bool := Memory.wfFrom 0 m

/-- The LUT address `T, k` (20_memory.md R40). -/
def lutAddress (t : Table) (k : Nibble) : BitVec 5 :=
  match t with
  | .nes => 0#1 ++ k
  | .hex => 1#1 ++ k

/-- `LutSym(T, k)`, the forward read (20_memory.md R41). -/
def lutSym (m : Memory) (t : Table) (k : Nibble) : Byte := m.read (lutAddress t k)

/-- The sixteen nibbles in the order of the scan (20_memory.md R42). -/
def nibbles : List Nibble := [0, 1, 2, 3, 4, 5, 6, 7, 8, 9, 10, 11, 12, 13, 14, 15]

/-- `LutFind(T, ch)`, the reverse lookup; a miss gives nibble 0000 as an explicit default (20_memory.md R42). -/
def lutFind (m : Memory) (t : Table) (ch : Byte) : Bool × Nibble :=
  match nibbles.find? fun k => lutSym m t k == ch with
  | some k => (true, k)
  | none => (false, 0#4)

/-! ## The end of an operation -/

/-- Hand a result record to the host. The lookup RAM is never written (10_state.md R24). -/
def State.deliver (r : Result) (s : State) : State :=
  { s with result := r, completed := true, draw := s.draw + 1 }

/-- The optional strings of a free record, cut to LMAX characters, the bound the spec sets on any string
(00_scope.md R10). -/
def clipStrings (lmax : Nat) (r : Result) : Result :=
  { r with
    replacementCode := r.replacementCode.map (·.take lmax)
    correctedCode := r.correctedCode.map (·.take lmax)
    displayCode := r.displayCode.map (·.take lmax)
    primaryCode := r.primaryCode.map (·.take lmax)
    siblingCode := r.siblingCode.map (·.take lmax) }

/-- The free record of the current draw (log entry 4). -/
def State.freeRecord (s : State) : Result := clipStrings s.params.lmax (Config.freeResult s.draw)

/-- The record an error leaves: STATUS, and `ramTargeted = 1` for RamTargetDeclined; every other field is unspecified
(60_exceptions.md R198). -/
def errorResult (e : Status) (s : State) : Result :=
  match e with
  | .ramTargetDeclined => { s.freeRecord with status := e, ramTargeted := true }
  | _ => { s.freeRecord with status := e }

/-- `raise E`: the operation ends at once with STATUS (60_exceptions.md R197). The one shared form of taking an error. -/
def raiseError (e : Status) (s : State) : State := s.deliver (errorResult e s)

/-- The record a success starts from: every 1-bit field 0, every optional field absent; ADDR, VALUE and CONDITION are
unspecified until the operation writes them (10_state.md R27). -/
def successResult (s : State) : Result :=
  { status := .success
    addr := s.freeRecord.addr
    value := s.freeRecord.value
    condValid := false
    condition := s.freeRecord.condition
    noOp := false
    invalidSymbols := false
    replacementCode := none
    ramTargeted := false
    parityMismatch := false
    correctedCode := none
    displayCode := none
    primaryCode := none
    siblingCode := none }

/-- End an operation: with the record `r` when its tests found no error, else by raising the error found
(60_exceptions.md R197, R199). -/
def conclude (check : Status) (r : Result) (s : State) : State :=
  match check with
  | .success => s.deliver r
  | e => raiseError e s

/-- The first of a length test and a character test that fails, in the order the OPEN parameter lengthBeforeSymbol
gives (60_exceptions.md R199; 92_eei_decisions.md D6, D7). -/
def firstFailure (lengthFirst lengthBad charBad : Bool) (charError : Status) : Status :=
  if lengthFirst then
    if lengthBad then .invalidLength else if charBad then charError else .success
  else
    if charBad then charError else if lengthBad then .invalidLength else .success

/-! ## Waiting, and the reset signal -/

/-- With nothing presented the block waits, and nothing changes (10_state.md R28, R31; DEDUCED, log entry 7). -/
def waitForHost (s : State) : State := s

/-- Reset between two operations: the lookup RAM holds its reset contents again and nothing else of the block changes;
the result record may not be read until an operation completes, so it is a free value
(70_reset_and_hazards.md R220, R221; DEDUCED, log entry 8). -/
def resetSignal (s : State) : State :=
  { s with lut := [], result := s.freeRecord, completed := false, draw := s.draw + 1 }

end Sys2Proof.Machine
end

