-- ==== Sys2Proof/Machine/Operands.lean ====
section
/-! DEFINITION. The shared combinational logic of 40_common_logic.md: case folding and character classes (R90 to R93),
character to nibble (R94, R95), nibble bits and groups (00_scope.md R6, R7), group to digit (R97), dashes (R101), and the
text form of a patch (10_state.md R26). -/

namespace Sys2Proof.Machine

/-! ## Characters -/

/-- `upcase` (40_common_logic.md R90). -/
def upcase (ch : Byte) : Byte := if 0x61#8 ≤ ch ∧ ch ≤ 0x7A#8 then ch - 0x20#8 else ch

/-- `is_ws` (40_common_logic.md R91). -/
def isWs (ch : Byte) : Bool := ch == 0x20#8 || (decide (0x09#8 ≤ ch) && decide (ch ≤ 0x0D#8))

/-- `is_digit` (40_common_logic.md R92). -/
def isDigit (ch : Byte) : Bool := decide (0x30#8 ≤ ch) && decide (ch ≤ 0x39#8)

/-- `NibNes` (40_common_logic.md R94). -/
def nibNes (m : Memory) (ch : Byte) : Bool × Nibble := lutFind m .nes (upcase ch)

/-- `NibHex` (40_common_logic.md R95). -/
def nibHex (m : Memory) (ch : Byte) : Bool × Nibble := lutFind m .hex (upcase ch)

/-- `is_hex` (40_common_logic.md R93). -/
def isHex (m : Memory) (ch : Byte) : Bool := (lutFind m .hex (upcase ch)).1

/-! ## Nibbles, groups and digits -/

/-- `n.b`: bit b of a nibble, bit 0 the most significant (00_scope.md R6; 40_common_logic.md R96). -/
def nibBit (n : Nibble) (b : Nat) : Bool := n.getMsbD b

/-- The nibble `b0 b1 b2 b3` of value 8*b0 + 4*b1 + 2*b2 + b3 (00_scope.md R7). -/
def group (b0 b1 b2 b3 : Bool) : Nibble :=
  BitVec.ofNat 4 (8 * b0.toNat + 4 * b1.toNat + 2 * b2.toNat + b3.toNat)

/-- `hexdigit` (40_common_logic.md R97). -/
def hexdigit (m : Memory) (g : Nibble) : Byte := lutSym m .hex g

/-- The K-th group, `outK` (00_scope.md R9). -/
def outGroup (outs : List Nibble) (k : Nat) : Nibble := outs.getD k 0#4

/-- The byte of the groups `outK, outK+1`, `outK` the high nibble (00_scope.md R9). -/
def byteAt (outs : List Nibble) (k : Nat) : Byte := outGroup outs k ++ outGroup outs (k + 1)

/-- The address of the groups `out0..out3`, `out0` the most significant (00_scope.md R9; 20_memory.md R43). -/
def addressOf (outs : List Nibble) : BitVec 16 :=
  outGroup outs 0 ++ outGroup outs 1 ++ outGroup outs 2 ++ outGroup outs 3

/-! ## Dashes -/

/-- `dashed`, the canonical display form of a string of length 6 or 9 (40_common_logic.md R101; 30_encoding.md R66). -/
def dashed (s : Str) : Str :=
  s.take 3 ++ dash :: (s.drop 3).take 3 ++ (if s.length = 9 then dash :: s.drop 6 else [])

/-! ## The text form of a patch -/

/-- ADDR as four upper-case hex digits (10_state.md R26; 30_encoding.md R68). -/
def addrText (m : Memory) (r : Result) : Str :=
  [hexdigit m (r.addr.extractLsb' 12 4), hexdigit m (r.addr.extractLsb' 8 4),
    hexdigit m (r.addr.extractLsb' 4 4), hexdigit m (r.addr.extractLsb' 0 4)]

/-- A byte as two upper-case hex digits (30_encoding.md R68). -/
def byteText (m : Memory) (b : Byte) : Str := [hexdigit m (b.extractLsb' 4 4), hexdigit m (b.extractLsb' 0 4)]

/-- VALUE as text (10_state.md R26). -/
def valueText (m : Memory) (r : Result) : Str := byteText m r.value

/-- CONDITION as text, for a conditional patch (10_state.md R26). -/
def conditionText (m : Memory) (r : Result) : Str := byteText m r.condition

end Sys2Proof.Machine
end

