-- ==== Sys2Proof/Machine/Flags.lean ====
section
/-! DEFINITION. The flags of the result record (10_state.md R29), each set by its rule alone, and the numbers of STATUS
(60_exceptions.md R190). -/

namespace Sys2Proof.Machine

/-- The code of a status (60_exceptions.md R190). -/
def statusCode : Status → BitVec 3
  | .success => 0
  | .invalidLength => 1
  | .invalidSymbol => 2
  | .notHexadecimal => 3
  | .invalidDigit => 4
  | .notSupported => 5
  | .ramTargetDeclined => 6

/-- `noop` (40_common_logic.md R99). -/
def noop (condPresent : Bool) (value condition : Byte) : Bool := condPresent && value == condition

/-- `invalidSymbols`: some character is not in ALPHA_NES (41_nes_decode.md R112). -/
def unmappedSymbol (m : Memory) (code : Str) : Bool := code.any fun ch => !(nibNes m ch).1

/-- `ramTargeted`: the nibble of symbol 5 is below the threshold (43_hex_decode.md R153). -/
def ramTarget (tRam sym5 : Nibble) : Bool := decide (sym5 < tRam)

/-- `exp7`, the nibble the parity relation expects of symbol 7 (43_hex_decode.md R155). -/
def expectedParity (sym6 : Nibble) : Nibble :=
  group (!nibBit sym6 0) (nibBit sym6 1) (nibBit sym6 2) (nibBit sym6 3)

/-- `parityMismatch` of a 9-digit code (43_hex_decode.md R155). -/
def parityFails (sym6 sym7 : Nibble) : Bool := sym7 != expectedParity sym6

/-- The derived flag `invalid` (10_state.md R26; 90_conflicts.md C6). -/
def invalidFlag (r : Result) : Bool := r.invalidSymbols || r.parityMismatch

end Sys2Proof.Machine
end

