-- ==== Sys2Proof/Machine/Wiring.lean ====
section
/-! DEFINITION. The bit tables as literal lists of wires (40_common_logic.md R98): NES decode (41_nes_decode.md R114 to R116),
NES encode (42_nes_encode.md R132 to R134) and hex decode (43_hex_decode.md R157 to R159). -/

namespace Sys2Proof.Machine

/-- An entry of a bit table (40_common_logic.md R98). -/
inductive Wire where
  /-- `const 1`. -/
  | one
  /-- The don't-care bit of an encode table (42_nes_encode.md R135). -/
  | dc
  /-- `symI.b`: bit b of input nibble I. -/
  | bit (i b : Nat)
  /-- `symI.b` through an inverter. -/
  | inv (i b : Nat)
  deriving DecidableEq, Repr

/-- The four entries of one output nibble, entry 0 the most significant (40_common_logic.md R98). -/
structure WireRow where
  b0 : Wire
  b1 : Wire
  b2 : Wire
  b3 : Wire
  deriving DecidableEq, Repr

/-- The value on a wire, given the input nibbles and the don't-care bit. -/
def wireValue (ins : List Nibble) (dc : Bool) : Wire → Bool
  | .one => true
  | .dc => dc
  | .bit i b => nibBit (ins.getD i 0#4) b
  | .inv i b => !nibBit (ins.getD i 0#4) b

/-- One output nibble of a table. -/
def rowValue (ins : List Nibble) (dc : Bool) (row : WireRow) : Nibble :=
  group (wireValue ins dc row.b0) (wireValue ins dc row.b1) (wireValue ins dc row.b2) (wireValue ins dc row.b3)

/-- All output nibbles of a table: a gather on decode, a scatter on encode. -/
def wired (table : List WireRow) (ins : List Nibble) (dc : Bool) : List Nibble := table.map (rowValue ins dc)

/-! ## NES decode -/

/-- `out0..out3`, both lengths (41_nes_decode.md R114). -/
def nesAddressRows : List WireRow :=
  [⟨.one, .bit 3 1, .bit 3 2, .bit 3 3⟩,
   ⟨.bit 4 0, .bit 5 1, .bit 5 2, .bit 5 3⟩,
   ⟨.bit 1 0, .bit 2 1, .bit 2 2, .bit 2 3⟩,
   ⟨.bit 3 0, .bit 4 1, .bit 4 2, .bit 4 3⟩]

/-- `out4, out5` of length 6: the value (41_nes_decode.md R115). -/
def nesValueRows6 : List WireRow :=
  [⟨.bit 0 0, .bit 1 1, .bit 1 2, .bit 1 3⟩,
   ⟨.bit 5 0, .bit 0 1, .bit 0 2, .bit 0 3⟩]

/-- `out4..out7` of length 8: the condition, then the value (41_nes_decode.md R116). -/
def nesCondValueRows8 : List WireRow :=
  [⟨.bit 6 0, .bit 7 1, .bit 7 2, .bit 7 3⟩,
   ⟨.bit 5 0, .bit 6 1, .bit 6 2, .bit 6 3⟩,
   ⟨.bit 0 0, .bit 1 1, .bit 1 2, .bit 1 3⟩,
   ⟨.bit 7 0, .bit 0 1, .bit 0 2, .bit 0 3⟩]

/-! ## NES encode: the input nibbles are a0 a1 a2 a3 v0 v1 c0 c1, in that order (42_nes_encode.md R131) -/

/-- Digit 0 of the address, the most significant. -/
def a0 : Nat := 0
/-- Digit 1 of the address. -/
def a1 : Nat := 1
/-- Digit 2 of the address. -/
def a2 : Nat := 2
/-- Digit 3 of the address. -/
def a3 : Nat := 3
/-- The high digit of the value. -/
def v0 : Nat := 4
/-- The low digit of the value. -/
def v1 : Nat := 5
/-- The high digit of the condition. -/
def c0 : Nat := 6
/-- The low digit of the condition. -/
def c1 : Nat := 7

/-- `sym0..sym4`, both lengths (42_nes_encode.md R132). -/
def nesSymbolRows : List WireRow :=
  [⟨.bit v0 0, .bit v1 1, .bit v1 2, .bit v1 3⟩,
   ⟨.bit a2 0, .bit v0 1, .bit v0 2, .bit v0 3⟩,
   ⟨.dc, .bit a2 1, .bit a2 2, .bit a2 3⟩,
   ⟨.bit a3 0, .bit a0 1, .bit a0 2, .bit a0 3⟩,
   ⟨.bit a1 0, .bit a3 1, .bit a3 2, .bit a3 3⟩]

/-- `sym5` of a 6-letter code (42_nes_encode.md R133). -/
def nesLastRows6 : List WireRow := [⟨.bit v1 0, .bit a1 1, .bit a1 2, .bit a1 3⟩]

/-- `sym5..sym7` of an 8-letter code (42_nes_encode.md R134). -/
def nesLastRows8 : List WireRow :=
  [⟨.bit c1 0, .bit a1 1, .bit a1 2, .bit a1 3⟩,
   ⟨.bit c0 0, .bit c1 1, .bit c1 2, .bit c1 3⟩,
   ⟨.bit v1 0, .bit c0 1, .bit c0 2, .bit c0 3⟩]

/-! ## Hex decode -/

/-- `out0..out3`, both lengths (43_hex_decode.md R157). -/
def hexAddressRows : List WireRow :=
  [⟨.inv 5 0, .inv 5 1, .inv 5 2, .inv 5 3⟩,
   ⟨.bit 2 0, .bit 2 1, .bit 2 2, .bit 2 3⟩,
   ⟨.bit 3 0, .bit 3 1, .bit 3 2, .bit 3 3⟩,
   ⟨.bit 4 0, .bit 4 1, .bit 4 2, .bit 4 3⟩]

/-- The last two groups, the value: `out4, out5` of length 6 (43_hex_decode.md R158), `out6, out7` of length 9 (R159). -/
def hexValueRows : List WireRow :=
  [⟨.bit 0 0, .bit 0 1, .bit 0 2, .bit 0 3⟩,
   ⟨.bit 1 0, .bit 1 1, .bit 1 2, .bit 1 3⟩]

/-- `out4, out5` of length 9: the condition (43_hex_decode.md R159). -/
def hexCondRows : List WireRow :=
  [⟨.inv 8 2, .bit 8 3, .inv 6 0, .inv 6 1⟩,
   ⟨.inv 6 2, .bit 6 3, .inv 8 0, .bit 8 1⟩]

end Sys2Proof.Machine
end

