-- ==== Sys2Proof/Machine/HexDecode.lean ====
section
/-! DEFINITION. Game Boy and Game Gear decode: GBDEC6, GBDEC9, GEARDEC6, GEARDEC9 (43_hex_decode.md). -/

namespace Sys2Proof.Machine

/-- T_RAM of mode gb (00_scope.md R5; 43_hex_decode.md R153). -/
def gbThreshold : Nibble := 8#4

/-- T_RAM of mode gear (00_scope.md R5; 43_hex_decode.md R153). -/
def gearThreshold : Nibble := 4#4

/-- The length and hexadecimal tests on the stripped code, in order (43_hex_decode.md R150 to R152; 60_exceptions.md
R199). -/
def hexFormCheck (code : Str) (s : State) : Status :=
  firstFailure s.params.lengthBeforeSymbol (!((strip code).length == 6 || (strip code).length == 9))
    ((strip code).any fun ch => !isHex s.lut ch) .notHexadecimal

/-- `s`: the stripped code in upper case (43_hex_decode.md R152). -/
def hexSymbols (code : Str) : Str := (strip code).map upcase

/-- `sym0..`: the nibbles of the stripped code (43_hex_decode.md R155). -/
def hexNibbles (m : Memory) (code : Str) : List Nibble := (hexSymbols code).map fun ch => (nibHex m ch).2

/-- `symI` (00_scope.md R8). -/
def hexNibble (m : Memory) (code : Str) (i : Nat) : Nibble := (hexNibbles m code).getD i 0#4

/-- All tests of hex decode, in order: the form, then the opt-in for a RAM target (43_hex_decode.md R153, R154). -/
def hexDecodeCheck (tRam : Nibble) (code : Str) (optin : Bool) (s : State) : Status :=
  match hexFormCheck code s with
  | .success => if ramTarget tRam (hexNibble s.lut code 5) && !optin then .ramTargetDeclined else .success
  | e => e

/-- The corrected code: character 7 recomputed from the parity relation (43_hex_decode.md R156). -/
def correctedOf (m : Memory) (code : Str) : Str :=
  dashed ((hexSymbols code).set 7 (hexdigit m (expectedParity (hexNibble m code 6))))

/-- The record of a successful decode of stripped length 6 (43_hex_decode.md R157, R158, R160). -/
def hexDecodeResult6 (tRam : Nibble) (code : Str) (s : State) : Result :=
  let outs := wired (hexAddressRows ++ hexValueRows) (hexNibbles s.lut code) false
  { successResult s with
    addr := addressOf outs
    value := byteAt outs 4
    ramTargeted := ramTarget tRam (hexNibble s.lut code 5)
    displayCode := some (dashed (hexSymbols code)) }

/-- The record of a successful decode of stripped length 9 (43_hex_decode.md R155 to R157, R159, R160). -/
def hexDecodeResult9 (tRam : Nibble) (code : Str) (s : State) : Result :=
  let outs := wired (hexAddressRows ++ hexCondRows ++ hexValueRows) (hexNibbles s.lut code) false
  let mismatch := parityFails (hexNibble s.lut code 6) (hexNibble s.lut code 7)
  { successResult s with
    addr := addressOf outs
    condition := byteAt outs 4
    value := byteAt outs 6
    condValid := true
    noOp := noop true (byteAt outs 6) (byteAt outs 4)
    ramTargeted := ramTarget tRam (hexNibble s.lut code 5)
    parityMismatch := mismatch
    correctedCode := if mismatch then some (correctedOf s.lut code) else none
    displayCode := some (dashed (hexSymbols code)) }

/-- HEXDEC with n = 6 (43_hex_decode.md section 2). -/
def hexDecode6 (tRam : Nibble) (code : Str) (optin : Bool) (s : State) : State :=
  conclude (hexDecodeCheck tRam code optin s) (hexDecodeResult6 tRam code s) s

/-- HEXDEC with n = 9 (43_hex_decode.md section 2). -/
def hexDecode9 (tRam : Nibble) (code : Str) (optin : Bool) (s : State) : State :=
  conclude (hexDecodeCheck tRam code optin s) (hexDecodeResult9 tRam code s) s

/-- GBDEC6 (43_hex_decode.md R161). -/
def execGbdec6 (code : Str) (optin : Bool) (s : State) : Host.Outcome State Fault Refusal :=
  .next (hexDecode6 gbThreshold code optin s)

/-- GBDEC9 (43_hex_decode.md R162). -/
def execGbdec9 (code : Str) (optin : Bool) (s : State) : Host.Outcome State Fault Refusal :=
  .next (hexDecode9 gbThreshold code optin s)

/-- GEARDEC6 (43_hex_decode.md R163). -/
def execGeardec6 (code : Str) (optin : Bool) (s : State) : Host.Outcome State Fault Refusal :=
  .next (hexDecode6 gearThreshold code optin s)

/-- GEARDEC9 (43_hex_decode.md R164). -/
def execGeardec9 (code : Str) (optin : Bool) (s : State) : Host.Outcome State Fault Refusal :=
  .next (hexDecode9 gearThreshold code optin s)

/-- CMD = 010 or 100 with a stripped length that selects no variant: the same tests, which find an error
(30_encoding.md R63; 43_hex_decode.md R151; log entry 10). -/
def hexNoVariant (code : Str) (s : State) : State := raiseError (hexFormCheck code s) s

end Sys2Proof.Machine
end

