-- ==== Sys2Proof/Machine/NesDecode.lean ====
section
/-! DEFINITION. NES decode: NESDEC6 and NESDEC8 (41_nes_decode.md). -/

namespace Sys2Proof.Machine

/-- The tests of NES decode, in order (41_nes_decode.md R110, R111; 60_exceptions.md R199). -/
def nesDecodeCheck (code : Str) (s : State) : Status :=
  firstFailure s.params.lengthBeforeSymbol (!(code.length == 6 || code.length == 8))
    (code.any fun ch => isWs ch || isDigit ch) .invalidSymbol

/-- `sym0..`: the nibble of every character, 0000 for an unmapped one (41_nes_decode.md R112). -/
def nesNibbles (m : Memory) (code : Str) : List Nibble := code.map fun ch => (nibNes m ch).2

/-- The code with every mapped symbol in upper case and every unmapped one replaced by the alphabet's first symbol
(41_nes_decode.md R113). -/
def replacementOf (m : Memory) (code : Str) : Str :=
  code.map fun ch => if (nibNes m ch).1 then upcase ch else lutSym m .nes 0#4

/-- `replacementCode` is present exactly when some symbol is unmapped (41_nes_decode.md R113). -/
def replacementField (m : Memory) (code : Str) : Option Str :=
  if unmappedSymbol m code then some (replacementOf m code) else none

/-- The record of a successful NESDEC6 (41_nes_decode.md R115). -/
def nesDecodeResult6 (code : Str) (s : State) : Result :=
  let outs := wired (nesAddressRows ++ nesValueRows6) (nesNibbles s.lut code) false
  { successResult s with
    addr := addressOf outs
    value := byteAt outs 4
    invalidSymbols := unmappedSymbol s.lut code
    replacementCode := replacementField s.lut code }

/-- The record of a successful NESDEC8 (41_nes_decode.md R116). -/
def nesDecodeResult8 (code : Str) (s : State) : Result :=
  let outs := wired (nesAddressRows ++ nesCondValueRows8) (nesNibbles s.lut code) false
  { successResult s with
    addr := addressOf outs
    condition := byteAt outs 4
    value := byteAt outs 6
    condValid := true
    noOp := noop true (byteAt outs 6) (byteAt outs 4)
    invalidSymbols := unmappedSymbol s.lut code
    replacementCode := replacementField s.lut code }

/-- NESDEC6 (41_nes_decode.md R115). -/
def execNesdec6 (code : Str) (s : State) : Host.Outcome State Fault Refusal :=
  .next (conclude (nesDecodeCheck code s) (nesDecodeResult6 code s) s)

/-- NESDEC8 (41_nes_decode.md R116). -/
def execNesdec8 (code : Str) (s : State) : Host.Outcome State Fault Refusal :=
  .next (conclude (nesDecodeCheck code s) (nesDecodeResult8 code s) s)

/-- CMD = 000 with a length that selects no variant: the same tests, which find an error (30_encoding.md R63;
41_nes_decode.md R110; log entry 10). -/
def nesNoVariant (code : Str) (s : State) : State := raiseError (nesDecodeCheck code s) s

end Sys2Proof.Machine
end

