-- ==== Sys2Proof/Machine/NesEncode.lean ====
section
/-! DEFINITION. NES encode: NESENC6 and NESENC8 (42_nes_encode.md). -/

namespace Sys2Proof.Machine

/-- An operand of exactly `n` hex digits, either case (42_nes_encode.md R130; 30_encoding.md R67). -/
def hexOperand (m : Memory) (n : Nat) (text : Str) : Bool := text.length == n && text.all (isHex m)

/-- The nibbles of an operand's digits (42_nes_encode.md R131). -/
def digitNibbles (m : Memory) (text : Str) : List Nibble := text.map fun ch => (nibHex m ch).2

/-- Operand validation without a condition (42_nes_encode.md R130). -/
def nesEncodeCheck6 (addr value : Str) (s : State) : Status :=
  if hexOperand s.lut 4 addr && hexOperand s.lut 2 value then .success else .invalidDigit

/-- Operand validation with a condition (42_nes_encode.md R130). -/
def nesEncodeCheck8 (addr value cond : Str) (s : State) : Status :=
  if hexOperand s.lut 4 addr && hexOperand s.lut 2 value && hexOperand s.lut 2 cond then .success else .invalidDigit

/-- The code string of one evaluation of the scatter (42_nes_encode.md R135). -/
def nesCode (m : Memory) (rows : List WireRow) (digits : List Nibble) (dc : Bool) : Str :=
  (wired rows digits dc).map (lutSym m .nes)

/-- The record of a successful NESENC6 (42_nes_encode.md R133). -/
def nesEncodeResult6 (addr value : Str) (s : State) : Result :=
  let digits := digitNibbles s.lut addr ++ digitNibbles s.lut value
  { successResult s with
    primaryCode := some (nesCode s.lut (nesSymbolRows ++ nesLastRows6) digits false)
    siblingCode := some (nesCode s.lut (nesSymbolRows ++ nesLastRows6) digits true) }

/-- The record of a successful NESENC8 (42_nes_encode.md R134, R137). -/
def nesEncodeResult8 (addr value cond : Str) (s : State) : Result :=
  let digits := digitNibbles s.lut addr ++ digitNibbles s.lut value ++ digitNibbles s.lut cond
  { successResult s with
    noOp := noop true (byteAt digits v0) (byteAt digits c0)
    primaryCode := some (nesCode s.lut (nesSymbolRows ++ nesLastRows8) digits false)
    siblingCode := some (nesCode s.lut (nesSymbolRows ++ nesLastRows8) digits true) }

/-- NESENC6 (42_nes_encode.md R133). -/
def execNesenc6 (addr value : Str) (s : State) : Host.Outcome State Fault Refusal :=
  .next (conclude (nesEncodeCheck6 addr value s) (nesEncodeResult6 addr value s) s)

/-- NESENC8 (42_nes_encode.md R134). -/
def execNesenc8 (addr value cond : Str) (s : State) : Host.Outcome State Fault Refusal :=
  .next (conclude (nesEncodeCheck8 addr value cond s) (nesEncodeResult8 addr value cond s) s)

end Sys2Proof.Machine
end

