-- ==== Sys2Proof/Machine/Unsupported.lean ====
section
/-! DEFINITION. The operations defined to fail (44_unsupported.md): each answers NotSupported, always, before any look at the
operands. That answer is their effect, so they take a next state. -/

namespace Sys2Proof.Machine

/-- GBENC (44_unsupported.md R180). -/
def execGbenc (s : State) : Host.Outcome State Fault Refusal := .next (raiseError .notSupported s)

/-- GEARENC (44_unsupported.md R181). -/
def execGearenc (s : State) : Host.Outcome State Fault Refusal := .next (raiseError .notSupported s)

/-- RSVDDEC (44_unsupported.md R182). -/
def execRsvddec (s : State) : Host.Outcome State Fault Refusal := .next (raiseError .notSupported s)

/-- RSVDENC (44_unsupported.md R183). -/
def execRsvdenc (s : State) : Host.Outcome State Fault Refusal := .next (raiseError .notSupported s)

end Sys2Proof.Machine
end

