-- ==== Sys2Proof/Machine/Dispatch.lean ====
section
/-! DEFINITION. One arm per operation of the table (30_encoding.md R70), each one direct call of its meaning. -/

namespace Sys2Proof.Machine

def exec (i : Instr) (s : State) : Host.Outcome State Fault Refusal :=
  match i with
  | .nesdec6 code => Sys2Proof.Machine.execNesdec6 code s
  | .nesdec8 code => Sys2Proof.Machine.execNesdec8 code s
  | .nesenc6 addr value => Sys2Proof.Machine.execNesenc6 addr value s
  | .nesenc8 addr value cond => Sys2Proof.Machine.execNesenc8 addr value cond s
  | .gbdec6 code optin => Sys2Proof.Machine.execGbdec6 code optin s
  | .gbdec9 code optin => Sys2Proof.Machine.execGbdec9 code optin s
  | .gbenc => Sys2Proof.Machine.execGbenc s
  | .geardec6 code optin => Sys2Proof.Machine.execGeardec6 code optin s
  | .geardec9 code optin => Sys2Proof.Machine.execGeardec9 code optin s
  | .gearenc => Sys2Proof.Machine.execGearenc s
  | .rsvddec => Sys2Proof.Machine.execRsvddec s
  | .rsvdenc => Sys2Proof.Machine.execRsvdenc s

end Sys2Proof.Machine
end

