-- ==== Sys2Proof/Machine/Present.lean ====
section
/-! DEFINITION. One transaction: an operand record in, one result record out (10_state.md R25, R26; 20_memory.md R48). -/

namespace Sys2Proof.Machine

/-- A record that selects no variant ends in the error its tests find (30_encoding.md R63; 41_nes_decode.md R110;
43_hex_decode.md R151; DEDUCED, log entry 10). -/
def rejectRecord (e : DecodeError) (r : Operands) (s : State) : State :=
  match e with
  | .nesNoVariant => nesNoVariant r.code s
  | .hexNoVariant => hexNoVariant r.code s

/-- What the block does with a presented record. A string the operation reads over LMAX characters cannot be presented
(70_reset_and_hazards.md R227; log entry 6). -/
def present (r : Operands) (s : State) : Host.Outcome State Fault Refusal :=
  if r.presentable s.params then
    match decode r with
    | .ok i => exec i s
    | .error e => .next (rejectRecord e r s)
  else .refused .operandOverCapacity

end Sys2Proof.Machine
end

