-- ==== Sys2Proof/Machine/Step.lean ====
section
/-! DEFINITION. One step: the block takes what the host does next and does it whole (10_state.md R28; 20_memory.md R48: an
operation is one atomic step). -/

namespace Sys2Proof.Machine

/-- One step: an operation, a reset between operations, or a wait (70_reset_and_hazards.md section 4). -/
def step (s : State) : Host.Outcome State Fault Refusal :=
  match s.hostInputs with
  | [] => .next (waitForHost s)
  | .reset :: rest => .next (resetSignal { s with hostInputs := rest })
  | .op r :: rest => present r { s with hostInputs := rest }

/-- The state in which the host presents next the operation of a word of spec/opcode_table.json, with the operands of
`wordOperands` (log entry 2); whatever the host had lined up comes after it. -/
def State.withFetchWord (s : State) (_nbits w : Nat) : State :=
  { s with hostInputs := .op (wordOperands w) :: s.hostInputs }

end Sys2Proof.Machine
end

