-- ==== Sys2Proof/Safety.lean ====
section
/-! DEFINITION. What claims are stated in: what the host may read of a result record (10_state.md R27; 60_exceptions.md R198),
when a record is coherent (10_state.md R26), the invariant of the lookup RAM (R23, R24) and the invariant every step
keeps. -/

namespace Sys2Proof.Machine

/-- The lookup RAM holds the contents of rules R21 and R22 (10_state.md R24). -/
abbrev LutFixed (m : Memory) : Prop := ∀ a : BitVec 5, m.read a = Memory.resetContents a.toNat

/-- One table is a bijection: its entries are pairwise different (10_state.md R23). -/
abbrev TableBijective (m : Memory) (t : Table) : Prop := ∀ k j : Nibble, lutSym m t k = lutSym m t j → k = j

/-- The invariant of the lookup RAM (10_state.md R23): each table a bijection; no entry a lower-case letter, white space
or the dash; no entry of ALPHA_NES a digit. -/
structure LutInvariant (m : Memory) : Prop where
  nesBijective : TableBijective m .nes
  hexBijective : TableBijective m .hex
  upperCase : ∀ (t : Table) (k : Nibble), ¬(0x61#8 ≤ lutSym m t k ∧ lutSym m t k ≤ 0x7A#8)
  noWhiteSpace : ∀ (t : Table) (k : Nibble), isWs (lutSym m t k) = false
  noDash : ∀ (t : Table) (k : Nibble), lutSym m t k ≠ dash
  nesNoDigit : ∀ k : Nibble, isDigit (lutSym m .nes k) = false

/-! ## Operands, as the rules name them -/

/-- No character is white space or a digit, which NES decode refuses (41_nes_decode.md R111). -/
abbrev NesClean (code : Str) : Prop := ∀ ch ∈ code, isWs ch = false ∧ isDigit ch = false

/-- Every character is a hex digit (40_common_logic.md R93). -/
abbrev AllHex (m : Memory) (text : Str) : Prop := ∀ ch ∈ text, isHex m ch = true

/-- `symI` of a NES code (41_nes_decode.md R112). -/
abbrev nesSym (m : Memory) (code : Str) (i : Nat) : Nibble := (nibNes m (code.getD i 0#8)).2

/-- `symI` of a hex code, indexed in the stripped code (43_hex_decode.md R150, R155). -/
abbrev hexSym (m : Memory) (code : Str) (i : Nat) : Nibble := (nibHex m ((strip code).getD i 0#8)).2

/-- The nibble of digit i of an encode operand (42_nes_encode.md R131). -/
abbrev digitNib (m : Memory) (text : Str) (i : Nat) : Nibble := (nibHex m (text.getD i 0#8)).2

/-! ## What the host may read, and the invariant -/

/-- The record with every field 0 or absent, from which statements build the record they claim. -/
def blankResult : Result :=
  { status := .success, addr := 0#16, value := 0#8, condValid := false, condition := 0#8, noOp := false,
    invalidSymbols := false, replacementCode := none, ramTargeted := false, parityMismatch := false,
    correctedCode := none, displayCode := none, primaryCode := none, siblingCode := none }

/-- The record with every field the spec leaves unspecified set to 0 or absent: two records are equal under this view
exactly when they agree on all the host may read (10_state.md R27; 60_exceptions.md R198). -/
def specifiedPart (r : Result) : Result :=
  match r.status with
  | .success =>
    { r with
      addr := if r.primaryCode = none then r.addr else 0#16
      value := if r.primaryCode = none then r.value else 0#8
      condition := if r.primaryCode = none ∧ r.condValid = true then r.condition else 0#8 }
  | .ramTargetDeclined => { blankResult with status := r.status, ramTargeted := r.ramTargeted }
  | e => { blankResult with status := e }

/-- Every optional string of the record has at most LMAX characters (00_scope.md R10). -/
abbrev StringsFit (lmax : Nat) (r : Result) : Prop :=
  ∀ o ∈ [r.replacementCode, r.correctedCode, r.displayCode, r.primaryCode, r.siblingCode],
    ∀ text ∈ o, text.length ≤ lmax

/-- A successful record is coherent: which optional fields are present agrees with the flags (10_state.md R26), noOp
compares the bytes (40_common_logic.md R99), a NES patch lies in 0x8000..0xFFFF (41_nes_decode.md R119), and the sibling
differs from the primary at index 2 only (42_nes_encode.md R139). -/
structure SuccessCoherent (r : Result) : Prop where
  replacement : r.replacementCode.isSome = r.invalidSymbols
  corrected : r.correctedCode.isSome = r.parityMismatch
  parityNeedsCondition : r.parityMismatch = true → r.condValid = true
  decodeNoOp : r.primaryCode = none → r.noOp = (r.condValid && r.value == r.condition)
  encodePair : r.primaryCode.isSome = r.siblingCode.isSome
  encodeFlags : r.primaryCode.isSome = true →
    r.condValid = false ∧ r.invalidSymbols = false ∧ r.ramTargeted = false ∧ r.parityMismatch = false ∧
      r.displayCode = none
  siblings : ∀ p ∈ r.primaryCode, ∀ q ∈ r.siblingCode,
    p.length = q.length ∧ ∀ i, i ≠ 2 → p[i]? = q[i]?
  hexFlags : r.displayCode.isSome = true → r.invalidSymbols = false
  nesPatch : r.displayCode = none → r.primaryCode = none →
    0x8000#16 ≤ r.addr ∧ r.ramTargeted = false ∧ r.parityMismatch = false

/-- A record the host may read: coherent on success, `ramTargeted = 1` on RamTargetDeclined (60_exceptions.md R198). -/
structure ResultCoherent (r : Result) : Prop where
  onSuccess : r.status = .success → SuccessCoherent r
  onDeclined : r.status = .ramTargetDeclined → r.ramTargeted = true

/-- The invariant every step keeps: the lookup RAM in its canonical form with its fixed contents, LMAX in range, no
string over LMAX in the result, and a coherent result once an operation has completed. -/
structure Inv (s : State) : Prop where
  canonical : Memory.wf s.lut = true
  fixed : LutFixed s.lut
  params : Params.wf s.params
  strings : StringsFit s.params.lmax s.result
  coherent : s.completed = true → ResultCoherent s.result

end Sys2Proof.Machine
end

