-- ==== Sys2Proof/WellFormed.lean ====
section
/-! DEFINITION. When an operation is well formed: its strings fit their ports (00_scope.md R10) and its code has the
length of its variant (30_encoding.md R63). -/

namespace Sys2Proof

/-- An operation is well formed: its strings fit, and a decode code has its variant's length (30_encoding.md R63). The
digits of an encode operand are the operation's own business (42_nes_encode.md R130). -/
def Instr.wellFormed (p : Params) : Instr → Bool
  | .nesdec6 code => Str.fits p code && code.length == 6
  | .nesdec8 code => Str.fits p code && code.length == 8
  | .nesenc6 addr value => Str.fits p addr && Str.fits p value
  | .nesenc8 addr value cond => Str.fits p addr && Str.fits p value && Str.fits p cond
  | .gbdec6 code _ => Str.fits p code && (strip code).length == 6
  | .gbdec9 code _ => Str.fits p code && (strip code).length == 9
  | .gbenc => true
  | .geardec6 code _ => Str.fits p code && (strip code).length == 6
  | .geardec9 code _ => Str.fits p code && (strip code).length == 9
  | .gearenc => true
  | .rsvddec => true
  | .rsvdenc => true

end Sys2Proof
end

