-- ==== Sys2Proof/Certificates/Slice0/Obligations.lean ====
section
/-! DEFINITION. The statements about the model, from the numbered rules of spec/. A statement whose docstring names a
decision D<n> or a log entry rests on a choice of the spec's writer or of the model there. -/

open Sys2Proof Sys2Proof.Machine

/-! ## The lookup RAM, reset, and the invariant -/

/-- R21, R22: in every state that keeps the invariant, entry k of a table is the symbol of nibble k. -/
def Obligations.AlphabetsHoldTheirSymbols : Prop :=
  ∀ s : State, Inv s → ∀ k : Nibble,
    lutSym s.lut .nes k = (ascii "APZLGITYEOXUKSVN").getD k.toNat 0#8 ∧
      lutSym s.lut .hex k = (ascii "0123456789ABCDEF").getD k.toNat 0#8

/-- R23: in every state that keeps the invariant, each table is a bijection, and no entry is a lower-case letter, white
space or the dash, nor a digit in ALPHA_NES. -/
def Obligations.TablesAreBijections : Prop := ∀ s : State, Inv s → LutInvariant s.lut

/-- The invariant holds right after reset (R32, R220, R221; D17, log entries 3 and 5). -/
def Obligations.InvariantHoldsAtReset : Prop := Inv State.reset

/-- Every step keeps the invariant: the lookup RAM is never written, no string exceeds LMAX, and a record the host may
read is coherent. -/
def Obligations.StepKeepsInvariant : Prop := ∀ s t : State, Inv s → step s = .next t → Inv t

/-- R220, R221 (D17, D24, log entry 8): a reset between operations restores the lookup RAM, makes the result record
unreadable, and keeps everything else. -/
def Obligations.ResetSignalRestoresTables : Prop :=
  ∀ (s : State) (rest : List HostInput), s.hostInputs = .reset :: rest →
    ∃ t, step s = .next t ∧ (∀ a : BitVec 5, t.lut.read a = Memory.resetContents a.toNat) ∧ t.completed = false ∧
      t.hostInputs = rest ∧ t.params = s.params

/-- R42: the reverse lookup finds the first entry that holds the character, misses with nibble 0000 when none does, and
in a bijective table inverts the forward read. -/
def Obligations.LutFindIsReverseLookup : Prop :=
  ∀ (m : Memory) (t : Table) (ch : Byte),
    (∀ k, lutFind m t ch = (true, k) ↔ lutSym m t k = ch ∧ ∀ j, j < k → lutSym m t j ≠ ch) ∧
      ((∀ k, lutSym m t k ≠ ch) ↔ lutFind m t ch = (false, 0#4)) ∧
      (TableBijective m t → ∀ k, lutFind m t (lutSym m t k) = (true, k))

/-! ## The shared logic -/

/-- R90 (D4): `upcase` folds the 26 lower-case letters and nothing else. -/
def Obligations.UpcaseFoldsLettersOnly : Prop :=
  ∀ ch : Byte, (0x61 ≤ ch.toNat ∧ ch.toNat ≤ 0x7A → (upcase ch).toNat + 0x20 = ch.toNat) ∧
    (ch.toNat < 0x61 ∨ 0x7A < ch.toNat → upcase ch = ch)

/-- R91, R92, R93 (D5, D8): white space, digits and hex digits, as ASCII codes. -/
def Obligations.CharacterClasses : Prop :=
  ∀ s : State, Inv s → ∀ ch : Byte,
    (isWs ch = true ↔ ch ∈ [0x09#8, 0x0A#8, 0x0B#8, 0x0C#8, 0x0D#8, 0x20#8]) ∧
      (isDigit ch = true ↔ ch ∈ ascii "0123456789") ∧
      (isHex s.lut ch = true ↔ ch ∈ ascii "0123456789ABCDEFabcdef")

/-- R94: a NES letter in either case maps to its nibble, and every other character is unmapped and gives 0000. -/
def Obligations.NibNesMapsSymbols : Prop :=
  ∀ s : State, Inv s → ∀ ch : Byte,
    (∀ k : Nibble, upcase ch = (ascii "APZLGITYEOXUKSVN").getD k.toNat 0#8 → nibNes s.lut ch = (true, k)) ∧
      (upcase ch ∉ ascii "APZLGITYEOXUKSVN" → nibNes s.lut ch = (false, 0#4))

/-- R97: every group has its upper-case hex digit. -/
def Obligations.HexdigitsAreUpperCase : Prop :=
  ∀ s : State, Inv s → ∀ g : Nibble, hexdigit s.lut g = lutSym s.lut .hex g ∧
    hexdigit s.lut g = (ascii "0123456789ABCDEF").getD g.toNat 0#8

/-- R6, R7: bit 0 of a nibble is its most significant bit, and a group has the value of its bits. -/
def Obligations.NibbleBitWeights : Prop :=
  (∀ b0 b1 b2 b3 : Bool, (group b0 b1 b2 b3).toNat = 8 * b0.toNat + 4 * b1.toNat + 2 * b2.toNat + b3.toNat) ∧
    (∀ n : Nibble, n.toNat = 8 * (nibBit n 0).toNat + 4 * (nibBit n 1).toNat + 2 * (nibBit n 2).toNat +
      (nibBit n 3).toNat)

/-- R100 (D9): `strip` removes every dash, wherever it stands, and keeps the order of the other characters. -/
def Obligations.StripRemovesEveryDash : Prop :=
  strip [] = [] ∧ (∀ s : Str, strip (dash :: s) = strip s) ∧
    (∀ (ch : Byte) (s : Str), ch ≠ dash → strip (ch :: s) = ch :: strip s)

/-- R101: the dashed form of a string of length 6 or 9. -/
def Obligations.DashedForms : Prop :=
  ∀ x0 x1 x2 x3 x4 x5 x6 x7 x8 : Byte,
    dashed [x0, x1, x2, x3, x4, x5] = [x0, x1, x2, dash, x3, x4, x5] ∧
      dashed [x0, x1, x2, x3, x4, x5, x6, x7, x8] = [x0, x1, x2, dash, x3, x4, x5, dash, x6, x7, x8]

/-- R190 (D16): the codes of STATUS; code 7 is never produced. -/
def Obligations.StatusCodes : Prop :=
  statusCode .success = 0 ∧ statusCode .invalidLength = 1 ∧ statusCode .invalidSymbol = 2 ∧
    statusCode .notHexadecimal = 3 ∧ statusCode .invalidDigit = 4 ∧ statusCode .notSupported = 5 ∧
    statusCode .ramTargetDeclined = 6 ∧ ∀ e : Status, statusCode e ≠ 7

/-- R26, R68: the text form of a patch is upper-case hex digits, and read back it gives the bits. -/
def Obligations.PatchTextAgreesWithBits : Prop :=
  ∀ m : Memory, LutInvariant m → ∀ r : Result,
    (addrText m r).length = 4 ∧ (valueText m r).length = 2 ∧ (conditionText m r).length = 2 ∧
      AllHex m (addrText m r ++ valueText m r ++ conditionText m r) ∧
      (∀ ch ∈ addrText m r ++ valueText m r ++ conditionText m r, upcase ch = ch) ∧
      digitNib m (addrText m r) 0 ++ digitNib m (addrText m r) 1 ++ digitNib m (addrText m r) 2 ++
        digitNib m (addrText m r) 3 = r.addr ∧
      digitNib m (valueText m r) 0 ++ digitNib m (valueText m r) 1 = r.value ∧
      digitNib m (conditionText m r) 0 ++ digitNib m (conditionText m r) 1 = r.condition

/-! ## Selecting and presenting an operation -/

/-- R63 (the numbers of CMD by D2): the variant each operand record selects, row by row. -/
def Obligations.VariantSelection : Prop :=
  ∀ r : Operands,
    (r.cmd = 0b000#3 → (r.code.length = 6 → decode r = .ok (.nesdec6 r.code)) ∧
      (r.code.length = 8 → decode r = .ok (.nesdec8 r.code)) ∧
      (r.code.length ≠ 6 ∧ r.code.length ≠ 8 → decode r = .error .nesNoVariant)) ∧
    (r.cmd = 0b001#3 → (r.condPresent = false → decode r = .ok (.nesenc6 r.addrStr r.valStr)) ∧
      (r.condPresent = true → decode r = .ok (.nesenc8 r.addrStr r.valStr r.condStr))) ∧
    (r.cmd = 0b010#3 → ((strip r.code).length = 6 → decode r = .ok (.gbdec6 r.code r.ramOptin)) ∧
      ((strip r.code).length = 9 → decode r = .ok (.gbdec9 r.code r.ramOptin)) ∧
      ((strip r.code).length ≠ 6 ∧ (strip r.code).length ≠ 9 → decode r = .error .hexNoVariant)) ∧
    (r.cmd = 0b011#3 → decode r = .ok .gbenc) ∧
    (r.cmd = 0b100#3 → ((strip r.code).length = 6 → decode r = .ok (.geardec6 r.code r.ramOptin)) ∧
      ((strip r.code).length = 9 → decode r = .ok (.geardec9 r.code r.ramOptin)) ∧
      ((strip r.code).length ≠ 6 ∧ (strip r.code).length ≠ 9 → decode r = .error .hexNoVariant)) ∧
    (r.cmd = 0b101#3 → decode r = .ok .gearenc) ∧ (r.cmd = 0b110#3 → decode r = .ok .rsvddec) ∧
    (r.cmd = 0b111#3 → decode r = .ok .rsvdenc)

/-- Records written out from R70 and the examples of R75 decode to the operations they stand for (CMD numbers by D2). -/
def Obligations.WrittenRecordsDecode : Prop :=
  decode { Operands.bare 0b000#3 with code := ascii "SXIOPO" } = .ok (.nesdec6 (ascii "SXIOPO")) ∧
    decode { Operands.bare 0b001#3 with
      addrStr := ascii "91D9", valStr := ascii "AD", condPresent := true, condStr := ascii "00" } =
      .ok (.nesenc8 (ascii "91D9") (ascii "AD") (ascii "00")) ∧
    decode { Operands.bare 0b010#3 with code := ascii "001-507" } = .ok (.gbdec6 (ascii "001-507") false) ∧
    decode { Operands.bare 0b100#3 with code := ascii "001-50F-192" } =
      .ok (.geardec9 (ascii "001-50F-192") false) ∧
    decode { Operands.bare 0b101#3 with addrStr := ascii "0150" } = .ok .gearenc

/-- Every well-formed operation comes back from the record that presents it, for every LMAX and every operand. -/
def Obligations.DecodeEncodeAgree : Prop :=
  ∀ (p : Params) (i : Instr), i.wellFormed p = true → decode (encode i) = .ok i

/-- The other direction: the record that presents the decoded operation has the same command and the same value in
every field the operation reads, and is well formed if the record was presentable (R25, R70, R222). -/
def Obligations.EncodeReproducesReadFields : Prop :=
  ∀ (p : Params) (r : Operands) (i : Instr), decode r = .ok i →
    (encode i).cmd = r.cmd ∧ (r.presentable p = true → i.wellFormed p = true) ∧
      (directionOf r.cmd = .decode → platformOf r.cmd ≠ .reserved → (encode i).code = r.code) ∧
      (r.cmd = 0b010#3 ∨ r.cmd = 0b100#3 → (encode i).ramOptin = r.ramOptin) ∧
      (r.cmd = 0b001#3 → (encode i).addrStr = r.addrStr ∧ (encode i).valStr = r.valStr ∧
        (encode i).condPresent = r.condPresent ∧ (r.condPresent = true → (encode i).condStr = r.condStr))

/-- A step on a presented record that decodes runs exactly the decoded operation, on the state with that record taken
from the host's list (log entry 1). -/
def Obligations.StepRunsDecodedOperation : Prop :=
  ∀ (s : State) (r : Operands) (rest : List HostInput) (i : Instr),
    s.hostInputs = .op r :: rest → r.presentable s.params = true → decode r = .ok i →
      step s = exec i { s with hostInputs := rest }

/-- R28 (D28, log entry 7): with nothing presented the block waits and nothing changes. -/
def Obligations.StepWaitsForHost : Prop := ∀ s : State, s.hostInputs = [] → step s = .next s

/-- R63, R110, R151 and R199 (D6, D7, log entry 10): a record that selects no variant ends in InvalidLength, unless
lengthBeforeSymbol is false and a character fails its test, which then is the error. -/
def Obligations.NoVariantRaisesInOrder : Prop :=
  ∀ (s : State) (r : Operands) (rest : List HostInput),
    s.hostInputs = .op r :: rest → r.presentable s.params = true →
      (decode r = .error .nesNoVariant → ∃ t, step s = .next t ∧ t.hostInputs = rest ∧
        (t.result.status = .invalidSymbol ↔ s.params.lengthBeforeSymbol = false ∧ ¬NesClean r.code) ∧
        (t.result.status = .invalidLength ↔ s.params.lengthBeforeSymbol = true ∨ NesClean r.code)) ∧
      (decode r = .error .hexNoVariant → ∃ t, step s = .next t ∧ t.hostInputs = rest ∧
        (t.result.status = .notHexadecimal ↔
          s.params.lengthBeforeSymbol = false ∧ ¬AllHex s.lut (strip r.code)) ∧
        (t.result.status = .invalidLength ↔ s.params.lengthBeforeSymbol = true ∨ AllHex s.lut (strip r.code)))

/-- Totality (R120, R140, R167, R222): a presented record that fits its ports completes in one step, whatever it holds;
one that does not fit is refused by name and by nothing else (R227, D21, log entry 6). -/
def Obligations.PresentableRecordsComplete : Prop :=
  ∀ (s : State) (r : Operands) (rest : List HostInput), s.hostInputs = .op r :: rest →
    (r.presentable s.params = true → ∃ t, step s = .next t ∧ t.completed = true ∧ t.hostInputs = rest) ∧
      (r.presentable s.params = false → step s = .refused .operandOverCapacity)

/-- R25 (D1): a field the operation does not read has no effect, on the outcome or on anything else. -/
def Obligations.UnreadFieldsHaveNoEffect : Prop :=
  ∀ (s : State) (r : Operands) (i : Instr), decode r = .ok i → r.presentable s.params = true →
    present r s = present (encode i) s

/-! ## NES decode -/

/-- R114, R115: NESDEC6, its selection, its error and every field of its result. -/
def Obligations.Nesdec6Decodes : Prop :=
  (∀ r : Operands, r.cmd = 0b000#3 → r.code.length = 6 → decode r = .ok (.nesdec6 r.code)) ∧
    ∀ (s : State) (code : Str), code.length = 6 →
      (¬NesClean code → ∃ t, exec (.nesdec6 code) s = .next t ∧ t.result.status = .invalidSymbol) ∧
      (NesClean code → ∃ t, exec (.nesdec6 code) s = .next t ∧
        specifiedPart t.result = { blankResult with
          addr :=
            group true (nibBit (nesSym s.lut code 3) 1) (nibBit (nesSym s.lut code 3) 2)
              (nibBit (nesSym s.lut code 3) 3) ++
            group (nibBit (nesSym s.lut code 4) 0) (nibBit (nesSym s.lut code 5) 1)
              (nibBit (nesSym s.lut code 5) 2) (nibBit (nesSym s.lut code 5) 3) ++
            group (nibBit (nesSym s.lut code 1) 0) (nibBit (nesSym s.lut code 2) 1)
              (nibBit (nesSym s.lut code 2) 2) (nibBit (nesSym s.lut code 2) 3) ++
            group (nibBit (nesSym s.lut code 3) 0) (nibBit (nesSym s.lut code 4) 1)
              (nibBit (nesSym s.lut code 4) 2) (nibBit (nesSym s.lut code 4) 3)
          value :=
            group (nibBit (nesSym s.lut code 0) 0) (nibBit (nesSym s.lut code 1) 1)
              (nibBit (nesSym s.lut code 1) 2) (nibBit (nesSym s.lut code 1) 3) ++
            group (nibBit (nesSym s.lut code 5) 0) (nibBit (nesSym s.lut code 0) 1)
              (nibBit (nesSym s.lut code 0) 2) (nibBit (nesSym s.lut code 0) 3)
          invalidSymbols := code.any fun ch => !(nibNes s.lut ch).1
          replacementCode :=
            if (code.any fun ch => !(nibNes s.lut ch).1) = true then
              some (code.map fun ch => if (nibNes s.lut ch).1 = true then upcase ch else lutSym s.lut .nes 0)
            else none })

/-- R114, R116: NESDEC8, its selection, its error and every field of its result. -/
def Obligations.Nesdec8Decodes : Prop :=
  (∀ r : Operands, r.cmd = 0b000#3 → r.code.length = 8 → decode r = .ok (.nesdec8 r.code)) ∧
    ∀ (s : State) (code : Str), code.length = 8 →
      (¬NesClean code → ∃ t, exec (.nesdec8 code) s = .next t ∧ t.result.status = .invalidSymbol) ∧
      (NesClean code → ∀ (c v : Byte),
        c = group (nibBit (nesSym s.lut code 6) 0) (nibBit (nesSym s.lut code 7) 1)
              (nibBit (nesSym s.lut code 7) 2) (nibBit (nesSym s.lut code 7) 3) ++
            group (nibBit (nesSym s.lut code 5) 0) (nibBit (nesSym s.lut code 6) 1)
              (nibBit (nesSym s.lut code 6) 2) (nibBit (nesSym s.lut code 6) 3) →
        v = group (nibBit (nesSym s.lut code 0) 0) (nibBit (nesSym s.lut code 1) 1)
              (nibBit (nesSym s.lut code 1) 2) (nibBit (nesSym s.lut code 1) 3) ++
            group (nibBit (nesSym s.lut code 7) 0) (nibBit (nesSym s.lut code 0) 1)
              (nibBit (nesSym s.lut code 0) 2) (nibBit (nesSym s.lut code 0) 3) →
        ∃ t, exec (.nesdec8 code) s = .next t ∧
          specifiedPart t.result = { blankResult with
            addr :=
              group true (nibBit (nesSym s.lut code 3) 1) (nibBit (nesSym s.lut code 3) 2)
                (nibBit (nesSym s.lut code 3) 3) ++
              group (nibBit (nesSym s.lut code 4) 0) (nibBit (nesSym s.lut code 5) 1)
                (nibBit (nesSym s.lut code 5) 2) (nibBit (nesSym s.lut code 5) 3) ++
              group (nibBit (nesSym s.lut code 1) 0) (nibBit (nesSym s.lut code 2) 1)
                (nibBit (nesSym s.lut code 2) 2) (nibBit (nesSym s.lut code 2) 3) ++
              group (nibBit (nesSym s.lut code 3) 0) (nibBit (nesSym s.lut code 4) 1)
                (nibBit (nesSym s.lut code 4) 2) (nibBit (nesSym s.lut code 4) 3)
            condition := c
            value := v
            condValid := true
            noOp := v == c
            invalidSymbols := code.any fun ch => !(nibNes s.lut ch).1
            replacementCode :=
              if (code.any fun ch => !(nibNes s.lut ch).1) = true then
                some (code.map fun ch => if (nibNes s.lut ch).1 = true then upcase ch else lutSym s.lut .nes 0)
              else none })

/-- R111: a NES code of a good length ends in InvalidSymbol exactly when some character is white space or a digit; a
character merely outside the alphabet does not raise it. -/
def Obligations.WhiteSpaceOrDigitRaises : Prop :=
  ∀ (s : State) (code : Str),
    (code.length = 6 → ∃ t, exec (.nesdec6 code) s = .next t ∧
      (t.result.status = .invalidSymbol ↔ ∃ ch ∈ code, isWs ch = true ∨ isDigit ch = true) ∧
      (t.result.status ≠ .invalidSymbol → t.result.status = .success)) ∧
    (code.length = 8 → ∃ t, exec (.nesdec8 code) s = .next t ∧
      (t.result.status = .invalidSymbol ↔ ∃ ch ∈ code, isWs ch = true ∨ isDigit ch = true) ∧
      (t.result.status ≠ .invalidSymbol → t.result.status = .success))

/-- R113 (D22): the replacement code decodes to the same patch with no unmapped symbol left. -/
def Obligations.ReplacementDecodesAlike : Prop :=
  ∀ s : State, LutInvariant s.lut → ∀ op ∈ [Instr.nesdec6, Instr.nesdec8], ∀ (p : Params) (code : Str) (t : State),
    (op code).wellFormed p = true → exec (op code) s = .next t → t.result.status = .success →
      t.result.invalidSymbols = true →
        ∃ c u, t.result.replacementCode = some c ∧ exec (op c) t = .next u ∧ u.result.status = .success ∧
          u.result.invalidSymbols = false ∧ u.result.addr = t.result.addr ∧ u.result.value = t.result.value ∧
          u.result.condValid = t.result.condValid ∧
          (t.result.condValid = true → u.result.condition = t.result.condition)

/-- R118: two NES codes that differ only in bit 0 of symbol 2 decode to the same patch. -/
def Obligations.ThirdSymbolTopBitIgnored : Prop :=
  ∀ (s : State) (code : Str) (ch : Byte), NesClean code → NesClean [ch] →
    (nibNes s.lut ch).2 = nesSym s.lut code 2 ^^^ 0b1000#4 →
      (code.length = 6 → ∃ t u, exec (.nesdec6 code) s = .next t ∧ exec (.nesdec6 (code.set 2 ch)) s = .next u ∧
        t.result.status = .success ∧ u.result.status = .success ∧ u.result.addr = t.result.addr ∧
        u.result.value = t.result.value) ∧
      (code.length = 8 → ∃ t u, exec (.nesdec8 code) s = .next t ∧ exec (.nesdec8 (code.set 2 ch)) s = .next u ∧
        t.result.status = .success ∧ u.result.status = .success ∧ u.result.addr = t.result.addr ∧
        u.result.value = t.result.value ∧ u.result.condition = t.result.condition)

/-- R119: a successful NES decode gives an address in 0x8000..0xFFFF, and every address there, with every value and
every condition, is the decode of some code. -/
def Obligations.NesPatchesAreTheUpperHalf : Prop :=
  (∀ (s t : State) (code : Str), exec (.nesdec6 code) s = .next t ∨ exec (.nesdec8 code) s = .next t →
      t.result.status = .success → 0x8000#16 ≤ t.result.addr) ∧
    ∀ s : State, LutInvariant s.lut → ∀ (a : BitVec 16) (v c : Byte), 0x8000#16 ≤ a →
      (∃ code t, code.length = 6 ∧ exec (.nesdec6 code) s = .next t ∧ t.result.status = .success ∧
        t.result.invalidSymbols = false ∧ t.result.addr = a ∧ t.result.value = v) ∧
      (∃ code t, code.length = 8 ∧ exec (.nesdec8 code) s = .next t ∧ t.result.status = .success ∧
        t.result.invalidSymbols = false ∧ t.result.addr = a ∧ t.result.value = v ∧ t.result.condition = c)

/-! ## NES encode -/

/-- R131 to R133 and R135 (the scatter is derived in the spec from the decode tables): NESENC6 on good operands gives
the two codes, symbol by symbol, and nothing else. -/
def Obligations.Nesenc6Encodes : Prop :=
  ∀ (s : State) (addr value : Str), addr.length = 4 → value.length = 2 → AllHex s.lut (addr ++ value) →
    ∀ a d : Nat → Nibble, a = digitNib s.lut addr → d = digitNib s.lut value →
      ∃ t, exec (.nesenc6 addr value) s = .next t ∧
        ∀ code : Bool → Str, (∀ dc, code dc = [
            lutSym s.lut .nes (group (nibBit (d 0) 0) (nibBit (d 1) 1) (nibBit (d 1) 2) (nibBit (d 1) 3)),
            lutSym s.lut .nes (group (nibBit (a 2) 0) (nibBit (d 0) 1) (nibBit (d 0) 2) (nibBit (d 0) 3)),
            lutSym s.lut .nes (group dc (nibBit (a 2) 1) (nibBit (a 2) 2) (nibBit (a 2) 3)),
            lutSym s.lut .nes (group (nibBit (a 3) 0) (nibBit (a 0) 1) (nibBit (a 0) 2) (nibBit (a 0) 3)),
            lutSym s.lut .nes (group (nibBit (a 1) 0) (nibBit (a 3) 1) (nibBit (a 3) 2) (nibBit (a 3) 3)),
            lutSym s.lut .nes (group (nibBit (d 1) 0) (nibBit (a 1) 1) (nibBit (a 1) 2) (nibBit (a 1) 3))]) →
          specifiedPart t.result =
            { blankResult with primaryCode := some (code false), siblingCode := some (code true) }

/-- R131, R132, R134, R135 and R137 (the scatter is derived in the spec from the decode tables): NESENC8 on good
operands gives the two codes, symbol by symbol, and noOp, and nothing else. -/
def Obligations.Nesenc8Encodes : Prop :=
  ∀ (s : State) (addr value cond : Str), addr.length = 4 → value.length = 2 → cond.length = 2 →
    AllHex s.lut (addr ++ value ++ cond) →
    ∀ a d c : Nat → Nibble, a = digitNib s.lut addr → d = digitNib s.lut value → c = digitNib s.lut cond →
      ∃ t, exec (.nesenc8 addr value cond) s = .next t ∧
        ∀ code : Bool → Str, (∀ dc, code dc = [
            lutSym s.lut .nes (group (nibBit (d 0) 0) (nibBit (d 1) 1) (nibBit (d 1) 2) (nibBit (d 1) 3)),
            lutSym s.lut .nes (group (nibBit (a 2) 0) (nibBit (d 0) 1) (nibBit (d 0) 2) (nibBit (d 0) 3)),
            lutSym s.lut .nes (group dc (nibBit (a 2) 1) (nibBit (a 2) 2) (nibBit (a 2) 3)),
            lutSym s.lut .nes (group (nibBit (a 3) 0) (nibBit (a 0) 1) (nibBit (a 0) 2) (nibBit (a 0) 3)),
            lutSym s.lut .nes (group (nibBit (a 1) 0) (nibBit (a 3) 1) (nibBit (a 3) 2) (nibBit (a 3) 3)),
            lutSym s.lut .nes (group (nibBit (c 1) 0) (nibBit (a 1) 1) (nibBit (a 1) 2) (nibBit (a 1) 3)),
            lutSym s.lut .nes (group (nibBit (c 0) 0) (nibBit (c 1) 1) (nibBit (c 1) 2) (nibBit (c 1) 3)),
            lutSym s.lut .nes (group (nibBit (d 1) 0) (nibBit (c 0) 1) (nibBit (c 0) 2) (nibBit (c 0) 3))]) →
          specifiedPart t.result =
            { blankResult with
              noOp := d 0 == c 0 && d 1 == c 1
              primaryCode := some (code false)
              siblingCode := some (code true) }

/-- R130 and R194 (lower case by D13): NES encode ends in InvalidDigit exactly when an operand it reads has the wrong
number of characters or a character that is not a hex digit; otherwise it succeeds. -/
def Obligations.InvalidDigitExactly : Prop :=
  ∀ (s : State) (addr value cond : Str),
    (∃ t, exec (.nesenc6 addr value) s = .next t ∧
      (t.result.status = .invalidDigit ↔
        addr.length ≠ 4 ∨ value.length ≠ 2 ∨ ∃ ch ∈ addr ++ value, isHex s.lut ch = false) ∧
      (t.result.status ≠ .invalidDigit → t.result.status = .success)) ∧
    (∃ t, exec (.nesenc8 addr value cond) s = .next t ∧
      (t.result.status = .invalidDigit ↔
        addr.length ≠ 4 ∨ value.length ≠ 2 ∨ cond.length ≠ 2 ∨
          ∃ ch ∈ addr ++ value ++ cond, isHex s.lut ch = false) ∧
      (t.result.status ≠ .invalidDigit → t.result.status = .success))

/-- R137: NESENC8 sets noOp exactly when the value byte equals the condition byte, NESENC6 never does, and both codes
are produced either way. -/
def Obligations.NoOpOnEncode : Prop :=
  ∀ (s : State) (addr value cond : Str), addr.length = 4 → value.length = 2 → AllHex s.lut (addr ++ value) →
    (∃ t, exec (.nesenc6 addr value) s = .next t ∧ t.result.status = .success ∧ t.result.noOp = false ∧
      t.result.primaryCode.isSome = true ∧ t.result.siblingCode.isSome = true) ∧
    (cond.length = 2 → AllHex s.lut cond → ∃ t, exec (.nesenc8 addr value cond) s = .next t ∧
      t.result.status = .success ∧
      (t.result.noOp = true ↔ digitNib s.lut value 0 ++ digitNib s.lut value 1 =
        digitNib s.lut cond 0 ++ digitNib s.lut cond 1) ∧
      t.result.primaryCode.isSome = true ∧ t.result.siblingCode.isSome = true)

/-- R135 (the position of the bit by 90_conflicts.md C1): both codes are always produced, they agree outside index 2,
and there the pair is one of A/E, P/O, Z/X, L/U, G/K, I/S, T/V, Y/N, primary first. -/
def Obligations.PrimaryAndSiblingPair : Prop :=
  ∀ (s t : State) (addr value cond : Str), Inv s →
    exec (.nesenc6 addr value) s = .next t ∨ exec (.nesenc8 addr value cond) s = .next t →
      t.result.status = .success →
        ∃ p q x y, t.result.primaryCode = some p ∧ t.result.siblingCode = some q ∧ p.length = q.length ∧
          (∀ i, i ≠ 2 → p[i]? = q[i]?) ∧ p[2]? = some x ∧ q[2]? = some y ∧
          (nibNes s.lut y).2 = (nibNes s.lut x).2 + 8#4 ∧ (x, y) ∈ (ascii "APZLGITY").zip (ascii "EOXUKSVN")

/-- R139: the two codes of an encode differ at index 2 and nowhere else, and both decode to the same patch. -/
def Obligations.SiblingInvariant : Prop :=
  ∀ (s t : State) (addr value cond : Str), LutInvariant s.lut →
    (exec (.nesenc6 addr value) s = .next t → t.result.status = .success →
      ∃ p q u w, t.result.primaryCode = some p ∧ t.result.siblingCode = some q ∧ p.length = q.length ∧
        (∀ i, p[i]? = q[i]? ↔ i ≠ 2) ∧ exec (.nesdec6 p) t = .next u ∧ exec (.nesdec6 q) t = .next w ∧
        u.result.status = .success ∧ specifiedPart u.result = specifiedPart w.result) ∧
    (exec (.nesenc8 addr value cond) s = .next t → t.result.status = .success →
      ∃ p q u w, t.result.primaryCode = some p ∧ t.result.siblingCode = some q ∧ p.length = q.length ∧
        (∀ i, p[i]? = q[i]? ↔ i ≠ 2) ∧ exec (.nesdec8 p) t = .next u ∧ exec (.nesdec8 q) t = .next w ∧
        u.result.status = .success ∧ specifiedPart u.result = specifiedPart w.result)

/-- R136 (D12): two addresses that differ only in bit 15 encode to the same codes. -/
def Obligations.AddressBit15Ignored : Prop :=
  ∀ (s : State) (addr addr' value cond : Str), addr.length = 4 → addr'.length = 4 → AllHex s.lut (addr ++ addr') →
    digitNib s.lut addr' 0 = digitNib s.lut addr 0 ^^^ 0b1000#4 →
    (∀ i, i = 1 ∨ i = 2 ∨ i = 3 → digitNib s.lut addr' i = digitNib s.lut addr i) →
      (∃ t u, exec (.nesenc6 addr value) s = .next t ∧ exec (.nesenc6 addr' value) s = .next u ∧
        specifiedPart t.result = specifiedPart u.result) ∧
      (∃ t u, exec (.nesenc8 addr value cond) s = .next t ∧ exec (.nesenc8 addr' value cond) s = .next u ∧
        specifiedPart t.result = specifiedPart u.result)

/-- R138, encode then decode: for every valid patch (address in 0x8000..0xFFFF) both codes decode to the patch. -/
def Obligations.EncodeThenDecode : Prop :=
  ∀ (s : State) (addr value cond : Str), LutInvariant s.lut → addr.length = 4 → value.length = 2 →
    AllHex s.lut (addr ++ value) →
    ∀ (a : BitVec 16) (v : Byte), 0x8000#16 ≤ a →
      a = digitNib s.lut addr 0 ++ digitNib s.lut addr 1 ++ digitNib s.lut addr 2 ++ digitNib s.lut addr 3 →
      v = digitNib s.lut value 0 ++ digitNib s.lut value 1 →
        (∃ t p q, exec (.nesenc6 addr value) s = .next t ∧ t.result.primaryCode = some p ∧
          t.result.siblingCode = some q ∧ ∀ code ∈ [p, q], ∃ u, exec (.nesdec6 code) t = .next u ∧
            u.result.status = .success ∧ u.result.addr = a ∧ u.result.value = v ∧ u.result.condValid = false ∧
            u.result.invalidSymbols = false) ∧
        (cond.length = 2 → AllHex s.lut cond →
          ∃ t p q, exec (.nesenc8 addr value cond) s = .next t ∧ t.result.primaryCode = some p ∧
            t.result.siblingCode = some q ∧ ∀ code ∈ [p, q], ∃ u, exec (.nesdec8 code) t = .next u ∧
              u.result.status = .success ∧ u.result.addr = a ∧ u.result.value = v ∧ u.result.condValid = true ∧
              u.result.condition = digitNib s.lut cond 0 ++ digitNib s.lut cond 1 ∧
              u.result.invalidSymbols = false)

/-- R138, decode then encode: a NES code of mapped symbols comes back, upper case, as the primary code when bit 0 of
symbol 2 is 0 and as the sibling code when it is 1. -/
def Obligations.DecodeThenEncode : Prop :=
  ∀ (s : State) (code : Str), LutInvariant s.lut → (∀ ch ∈ code, (nibNes s.lut ch).1 = true) →
    (code.length = 6 → ∃ t u, exec (.nesdec6 code) s = .next t ∧
      exec (.nesenc6 (addrText s.lut t.result) (valueText s.lut t.result)) t = .next u ∧
      u.result.status = .success ∧
      (if nibBit (nesSym s.lut code 2) 0 = true then u.result.siblingCode else u.result.primaryCode) =
        some (code.map upcase)) ∧
    (code.length = 8 → ∃ t u, exec (.nesdec8 code) s = .next t ∧
      exec (.nesenc8 (addrText s.lut t.result) (valueText s.lut t.result) (conditionText s.lut t.result)) t =
        .next u ∧
      u.result.status = .success ∧
      (if nibBit (nesSym s.lut code 2) 0 = true then u.result.siblingCode else u.result.primaryCode) =
        some (code.map upcase))

/-! ## Game Boy and Game Gear decode -/

/-- R157, R158, R161, R163: GBDEC6 and GEARDEC6 on a hex code of stripped length 6, every field of the result. -/
def Obligations.HexDecode6 : Prop :=
  ∀ op ∈ [(Instr.gbdec6, 8#4), (Instr.geardec6, 4#4)], ∀ (s : State) (code : Str) (optin : Bool),
    (strip code).length = 6 → AllHex s.lut (strip code) →
      ∀ n : Nat → Nibble, n = hexSym s.lut code →
        ∃ t, exec (op.1 code optin) s = .next t ∧
          ((n 5 < op.2 ∧ optin = false ∧ t.result.status = .ramTargetDeclined ∧ t.result.ramTargeted = true) ∨
            (¬(n 5 < op.2 ∧ optin = false) ∧
              specifiedPart t.result = { blankResult with
                addr := (n 5 ^^^ 0b1111#4) ++ n 2 ++ n 3 ++ n 4
                value := n 0 ++ n 1
                ramTargeted := decide (n 5 < op.2)
                displayCode := some (dashed ((strip code).map upcase)) }))

/-- R155, R157, R159, R162, R164 (the corrected code by D23): GBDEC9 and GEARDEC9 on a hex code of stripped length 9,
every field of the result. -/
def Obligations.HexDecode9 : Prop :=
  ∀ op ∈ [(Instr.gbdec9, 8#4), (Instr.geardec9, 4#4)], ∀ (s : State) (code : Str) (optin : Bool),
    (strip code).length = 9 → AllHex s.lut (strip code) →
      ∀ n : Nat → Nibble, n = hexSym s.lut code →
        ∀ (c v : Byte),
          c = group (!nibBit (n 8) 2) (nibBit (n 8) 3) (!nibBit (n 6) 0) (!nibBit (n 6) 1) ++
            group (!nibBit (n 6) 2) (nibBit (n 6) 3) (!nibBit (n 8) 0) (nibBit (n 8) 1) →
          v = n 0 ++ n 1 →
        ∃ t, exec (op.1 code optin) s = .next t ∧
          ((n 5 < op.2 ∧ optin = false ∧ t.result.status = .ramTargetDeclined ∧ t.result.ramTargeted = true) ∨
            (¬(n 5 < op.2 ∧ optin = false) ∧
              specifiedPart t.result = { blankResult with
                addr := (n 5 ^^^ 0b1111#4) ++ n 2 ++ n 3 ++ n 4
                condition := c
                value := v
                condValid := true
                noOp := v == c
                ramTargeted := decide (n 5 < op.2)
                parityMismatch := n 7 != n 6 ^^^ 0b1000#4
                correctedCode :=
                  if n 7 = n 6 ^^^ 0b1000#4 then none
                  else some (dashed (((strip code).map upcase).set 7 (hexdigit s.lut (n 6 ^^^ 0b1000#4))))
                displayCode := some (dashed ((strip code).map upcase)) }))

/-- R193: a hex code of a good stripped length ends in NotHexadecimal exactly when some character of the stripped code
is not a hex digit. -/
def Obligations.NotHexadecimalExactly : Prop :=
  ∀ (s : State) (p : Params) (code : Str) (optin : Bool),
    ∀ op ∈ [Instr.gbdec6, Instr.gbdec9, Instr.geardec6, Instr.geardec9], (op code optin).wellFormed p = true →
      ∃ t, exec (op code optin) s = .next t ∧
        (t.result.status = .notHexadecimal ↔ ∃ ch ∈ strip code, isHex s.lut ch = false)

/-- R154, R196: a RAM-targeted code is declined without the opt-in and decoded, flagged, with it; for any other code the
opt-in makes no difference. -/
def Obligations.RamTargetOptIn : Prop :=
  ∀ (s : State) (p : Params) (code : Str),
    ∀ op ∈ [(Instr.gbdec6, 8#4), (Instr.gbdec9, 8#4), (Instr.geardec6, 4#4), (Instr.geardec9, 4#4)],
      (op.1 code true).wellFormed p = true → AllHex s.lut (strip code) →
        (hexSym s.lut code 5 < op.2 → ∃ t u,
          exec (op.1 code false) s = .next t ∧ t.result.status = .ramTargetDeclined ∧ t.result.ramTargeted = true ∧
          exec (op.1 code true) s = .next u ∧ u.result.status = .success ∧ u.result.ramTargeted = true) ∧
        (¬hexSym s.lut code 5 < op.2 → exec (op.1 code false) s = exec (op.1 code true) s ∧
          ∃ t, exec (op.1 code false) s = .next t ∧ t.result.status = .success ∧ t.result.ramTargeted = false)

/-- R166: a successful decode is RAM-targeted exactly at 0x8000 and above for gb, at 0xC000 and above for gear. -/
def Obligations.RamTargetIsAnAddressClass : Prop :=
  ∀ (s t : State) (code : Str) (optin : Bool), t.result.status = .success →
    (exec (.gbdec6 code optin) s = .next t ∨ exec (.gbdec9 code optin) s = .next t →
      (t.result.ramTargeted = true ↔ 0x8000#16 ≤ t.result.addr)) ∧
    (exec (.geardec6 code optin) s = .next t ∨ exec (.geardec9 code optin) s = .next t →
      (t.result.ramTargeted = true ↔ 0xC000#16 ≤ t.result.addr))

/-- R159, the check form the spec derives: the condition is the byte of symbols 6 and 8 rotated right by two and XORed
with 0xBA. -/
def Obligations.ConditionIsARotation : Prop :=
  ∀ op ∈ [Instr.gbdec9, Instr.geardec9], ∀ (s : State) (code : Str), (strip code).length = 9 →
    AllHex s.lut (strip code) →
      ∃ t, exec (op code true) s = .next t ∧ t.result.status = .success ∧
        t.result.condition = (hexSym s.lut code 6 ++ hexSym s.lut code 8 : BitVec 8).rotateRight 2 ^^^ 0xBA#8

/-- R156 (D23): the corrected code is the display code with character 9 replaced, and decodes to the same patch with no
parity mismatch. -/
def Obligations.CorrectedCodeDecodesAlike : Prop :=
  ∀ op ∈ [Instr.gbdec9, Instr.geardec9], ∀ (s t : State) (p : Params) (code : Str) (optin : Bool),
    LutInvariant s.lut → (op code optin).wellFormed p = true → exec (op code optin) s = .next t →
      t.result.status = .success → t.result.parityMismatch = true →
        ∃ d c u, t.result.displayCode = some d ∧ t.result.correctedCode = some c ∧
          c = d.set 9 (hexdigit s.lut (hexSym s.lut code 6 ^^^ 0b1000#4)) ∧ exec (op c optin) t = .next u ∧
          specifiedPart u.result =
            { specifiedPart t.result with
              parityMismatch := false, correctedCode := none, displayCode := some c }

/-- R165: given the opt-in, every address and value is the decode of exactly one upper-case 6-digit code; every address,
condition and value of exactly one upper-case 9-digit code for each parity digit, and of exactly one without a parity
mismatch. -/
def Obligations.HexGatherIsABijection : Prop :=
  ∀ s : State, LutInvariant s.lut → ∀ (a : BitVec 16) (v c : Byte),
    (∀ op ∈ [Instr.gbdec6, Instr.geardec6],
      ∃! code : Str, code.length = 6 ∧ (∀ ch ∈ code, ∃ k, lutSym s.lut .hex k = ch) ∧
        ∃ t, exec (op code true) s = .next t ∧ t.result.status = .success ∧ t.result.addr = a ∧
          t.result.value = v) ∧
    (∀ op ∈ [Instr.gbdec9, Instr.geardec9],
      (∀ x : Nibble, ∃! code : Str, code.length = 9 ∧ (∀ ch ∈ code, ∃ k, lutSym s.lut .hex k = ch) ∧
        hexSym s.lut code 7 = x ∧
        ∃ t, exec (op code true) s = .next t ∧ t.result.status = .success ∧ t.result.addr = a ∧
          t.result.condition = c ∧ t.result.value = v) ∧
      (∃! code : Str, code.length = 9 ∧ (∀ ch ∈ code, ∃ k, lutSym s.lut .hex k = ch) ∧
        ∃ t, exec (op code true) s = .next t ∧ t.result.status = .success ∧ t.result.parityMismatch = false ∧
          t.result.addr = a ∧ t.result.condition = c ∧ t.result.value = v))

/-! ## Whole-machine rules -/

/-- R90, R100 (D4, D9, D13): case never matters on input, and dashes never matter in a hex code. -/
def Obligations.CaseAndDashesAreFormatting : Prop :=
  ∀ (s : State) (code code' addr value cond : Str) (optin : Bool),
    (∀ op ∈ [Instr.nesdec6, Instr.nesdec8], exec (op (code.map upcase)) s = exec (op code) s) ∧
      exec (.nesenc6 (addr.map upcase) (value.map upcase)) s = exec (.nesenc6 addr value) s ∧
      exec (.nesenc8 (addr.map upcase) (value.map upcase) (cond.map upcase)) s = exec (.nesenc8 addr value cond) s ∧
      ((strip code).map upcase = (strip code').map upcase →
        ∀ op ∈ [Instr.gbdec6, Instr.gbdec9, Instr.geardec6, Instr.geardec9],
          exec (op code optin) s = exec (op code' optin) s)

/-- R99, R116, R160: a successful decode sets noOp exactly when it is conditional and the value equals the
condition. -/
def Obligations.NoOpOnDecode : Prop :=
  ∀ (s t : State) (code : Str) (optin : Bool),
    ∀ i ∈ [Instr.nesdec6 code, .nesdec8 code, .gbdec6 code optin, .gbdec9 code optin, .geardec6 code optin,
        .geardec9 code optin],
      exec i s = .next t → t.result.status = .success →
        (t.result.condValid = true ↔
          i ∈ [Instr.nesdec8 code, .gbdec9 code optin, .geardec9 code optin]) ∧
        (t.result.noOp = true ↔ t.result.condValid = true ∧ t.result.value = t.result.condition)

/-- R26, R117, R160 (90_conflicts.md C6): the derived flag `invalid` of a successful result is invalidSymbols for NES
decode, parityMismatch for hex decode, and 0 for NES encode. -/
def Obligations.InvalidFlagByOperation : Prop :=
  ∀ (s t : State) (code addr value cond : Str) (optin : Bool), t.result.status = .success →
    (∀ i ∈ [Instr.nesdec6 code, .nesdec8 code], exec i s = .next t →
      invalidFlag t.result = t.result.invalidSymbols) ∧
    (∀ i ∈ [Instr.gbdec6 code optin, .gbdec9 code optin, .geardec6 code optin, .geardec9 code optin],
      exec i s = .next t → invalidFlag t.result = t.result.parityMismatch) ∧
    (∀ i ∈ [Instr.nesenc6 addr value, .nesenc8 addr value cond], exec i s = .next t →
      invalidFlag t.result = false)

/-- R195: the four operations defined to fail answer NotSupported, always, and no other operation does. -/
def Obligations.NotSupportedExactly : Prop :=
  ∀ (i : Instr) (s : State), ∃ t, exec i s = .next t ∧
    (t.result.status = .notSupported ↔ i ∈ [Instr.gbenc, .gearenc, .rsvddec, .rsvdenc])

/-- R180 to R183 (D19, D20): the operations defined to fail answer NotSupported before any look at the operands, so
operands of any content and length give the same answer. -/
def Obligations.UnsupportedIgnoresOperands : Prop :=
  ∀ (s : State) (r : Operands),
    r.cmd = 0b011#3 ∨ r.cmd = 0b101#3 ∨ r.cmd = 0b110#3 ∨ r.cmd = 0b111#3 →
      present r s = .next (raiseError .notSupported s) ∧ (raiseError .notSupported s).result.status = .notSupported

/-- R191 to R196, by the command word (CMD numbers by D2): the error kinds each operation can end in. -/
def Obligations.ErrorKindsByCommand : Prop :=
  ∀ (s t : State) (r : Operands), present r s = .next t →
    (r.cmd = 0b000#3 → t.result.status ∈ [Status.success, .invalidLength, .invalidSymbol]) ∧
      (r.cmd = 0b001#3 → t.result.status ∈ [Status.success, .invalidDigit]) ∧
      (r.cmd = 0b010#3 ∨ r.cmd = 0b100#3 →
        t.result.status ∈ [Status.success, .invalidLength, .notHexadecimal, .ramTargetDeclined]) ∧
      (t.result.status = .invalidLength → ∃ e, decode r = .error e)

/-- The frame of every operation (R24, R31, R197; D17): the lookup RAM reads as before at every address, and the
parameters and the host's list are unchanged; the one thing it writes is the result record. -/
def Obligations.OperationFrame : Prop :=
  ∀ (i : Instr) (s t : State), exec i s = .next t →
    (∀ a : BitVec 5, t.lut.read a = s.lut.read a) ∧ t.params = s.params ∧ t.hostInputs = s.hostInputs ∧
      t.completed = true

/-- The frame of a step: the parameters never change, one host input is taken, and only a reset touches the lookup RAM,
leaving its reset contents (R24, R220; D17). -/
def Obligations.StepFrame : Prop :=
  ∀ s t : State, step s = .next t →
    t.params = s.params ∧ t.hostInputs = s.hostInputs.tail ∧
      (s.hostInputs.head? ≠ some .reset → ∀ a : BitVec 5, t.lut.read a = s.lut.read a) ∧
      (s.hostInputs.head? = some .reset → ∀ a : BitVec 5, t.lut.read a = Memory.resetContents a.toNat)

/-- R31, R48: all the host may read of a result is a function of the operand record, the two tables and the parameters
alone: two states that agree on those give results that agree on it, whatever came before. -/
def Obligations.HistoryIndependence : Prop :=
  ∀ (s1 s2 t1 t2 : State) (r : Operands) (rest1 rest2 : List HostInput),
    (∀ a : BitVec 5, s1.lut.read a = s2.lut.read a) → s1.params = s2.params →
      s1.hostInputs = .op r :: rest1 → s2.hostInputs = .op r :: rest2 →
        step s1 = .next t1 → step s2 = .next t2 → specifiedPart t1.result = specifiedPart t2.result

/-- R203: after any operation, failed or not, the next one gives what it would have given had the first never been
issued. -/
def Obligations.FailedOperationLeavesNoTrace : Prop :=
  ∀ (s t u : State) (first second : Operands) (rest : List HostInput),
    s.hostInputs = .op first :: .op second :: rest → step s = .next t → step t = .next u →
      ∃ w, step { s with hostInputs := .op second :: rest } = .next w ∧
        specifiedPart u.result = specifiedPart w.result ∧ u.lut = w.lut ∧ u.params = w.params ∧
        u.hostInputs = w.hostInputs ∧ u.completed = w.completed
end

