-- ==== Sys2Proof/Laws/Memory.lean ====
section
/-! SUPPORT. The laws of the lookup RAM: its canonical form, and what the reverse lookup finds (20_memory.md R40 to R42). -/

namespace Sys2Proof.Machine

/-- The lookup RAM after reset is in canonical form. -/
theorem wf_nil : Memory.wf [] = true := rfl

/-- With nothing listed, every entry reads as its reset contents (20_memory.md R46). -/
theorem read_nil (a : BitVec 5) : Memory.read [] a = Memory.resetContents a.toNat := rfl

/-- A listed address in canonical form is at or above the bound. -/
theorem lookup_wfFrom_lt {m : Memory} {lo a : Nat} (h : Memory.wfFrom lo m = true) (ha : a < lo) :
    m.lookup a = none := by
  induction m generalizing lo with
  | nil => rfl
  | cons c rest ih =>
    obtain ⟨k, v⟩ := c
    simp only [Memory.wfFrom, Bool.and_eq_true, decide_eq_true_eq] at h
    obtain ⟨⟨⟨hk, -⟩, -⟩, hr⟩ := h
    simp only [Memory.lookup, if_neg (by omega : k ≠ a)]
    exact ih hr (by omega)

/-- In canonical form the lookup RAM reads as its reset contents everywhere only if nothing is listed: equal memories are
equal lists. -/
theorem eq_nil_of_reads_reset {m : Memory} (hw : m.wf = true)
    (h : ∀ a : BitVec 5, m.read a = Memory.resetContents a.toNat) : m = [] := by
  cases m with
  | nil => rfl
  | cons c rest =>
    obtain ⟨k, v⟩ := c
    simp only [Memory.wf, Memory.wfFrom, Bool.and_eq_true, decide_eq_true_eq, bne_iff_ne] at hw
    obtain ⟨⟨⟨-, hk⟩, hv⟩, -⟩ := hw
    have hr := h (BitVec.ofNat 5 k)
    have hn : (BitVec.ofNat 5 k).toNat = k := by simp; omega
    rw [Memory.read, hn] at hr
    exact absurd hr (by simpa [Memory.lookup] using hv)

/-- Every nibble is scanned (20_memory.md R42). -/
theorem mem_nibbles (k : Nibble) : k ∈ nibbles := by revert k; decide

/-- A hit names an entry that holds the character (20_memory.md R42). -/
theorem lutSym_of_lutFind {m : Memory} {t : Table} {ch : Byte} {k : Nibble} (h : lutFind m t ch = (true, k)) :
    lutSym m t k = ch := by
  unfold lutFind at h
  split at h
  next j hj =>
    obtain rfl : j = k := by simpa using h
    simpa using List.find?_some hj
  next => simp at h

/-- A miss means that no entry holds the character, and gives nibble 0000 (20_memory.md R42). -/
theorem lutFind_miss {m : Memory} {t : Table} {ch : Byte} (h : (lutFind m t ch).1 = false) :
    (lutFind m t ch).2 = 0#4 ∧ ∀ k, lutSym m t k ≠ ch := by
  unfold lutFind at h ⊢
  split at h
  next => simp at h
  next hn =>
    exact ⟨rfl, fun k hk => by simpa [hk] using List.find?_eq_none.1 hn k (mem_nibbles k)⟩

/-- In a bijective table the reverse lookup inverts the forward read (10_state.md R23, 20_memory.md R42). -/
theorem lutFind_lutSym {m : Memory} {t : Table} (hb : ∀ k j : Nibble, lutSym m t k = lutSym m t j → k = j)
    (k : Nibble) : lutFind m t (lutSym m t k) = (true, k) := by
  rcases hf : lutFind m t (lutSym m t k) with ⟨b, j⟩
  cases b with
  | true => rw [hb j k (lutSym_of_lutFind hf)]
  | false => exact absurd rfl ((lutFind_miss (by rw [hf])).2 k)

/-- `is_hex` is the hit of the hex lookup (40_common_logic.md R93). -/
theorem isHex_eq (m : Memory) (ch : Byte) : isHex m ch = (nibHex m ch).1 := rfl

end Sys2Proof.Machine
end

