-- ==== Sys2Proof/Laws/State.lean ====
section
/-! SUPPORT. One lemma per field per update of the state: delivering a record, the reset signal, and the host's inputs. -/

namespace Sys2Proof.Machine

/-! ## `State.deliver` -/

@[simp] theorem deliver_lut (r : Result) (s : State) : (s.deliver r).lut = s.lut := rfl
@[simp] theorem deliver_result (r : Result) (s : State) : (s.deliver r).result = r := rfl
@[simp] theorem deliver_completed (r : Result) (s : State) : (s.deliver r).completed = true := rfl
@[simp] theorem deliver_hostInputs (r : Result) (s : State) : (s.deliver r).hostInputs = s.hostInputs := rfl
@[simp] theorem deliver_params (r : Result) (s : State) : (s.deliver r).params = s.params := rfl
@[simp] theorem deliver_draw (r : Result) (s : State) : (s.deliver r).draw = s.draw + 1 := rfl

/-! ## `resetSignal` -/

@[simp] theorem resetSignal_lut (s : State) : (resetSignal s).lut = [] := rfl
@[simp] theorem resetSignal_result (s : State) : (resetSignal s).result = s.freeRecord := rfl
@[simp] theorem resetSignal_completed (s : State) : (resetSignal s).completed = false := rfl
@[simp] theorem resetSignal_hostInputs (s : State) : (resetSignal s).hostInputs = s.hostInputs := rfl
@[simp] theorem resetSignal_params (s : State) : (resetSignal s).params = s.params := rfl
@[simp] theorem resetSignal_draw (s : State) : (resetSignal s).draw = s.draw + 1 := rfl

/-! ## Free records and the records built on them -/

@[simp] theorem freeRecord_inputs (s : State) (l : List HostInput) :
    State.freeRecord { s with hostInputs := l } = s.freeRecord := rfl

@[simp] theorem successResult_status (s : State) : (successResult s).status = .success := rfl

@[simp] theorem errorResult_status (e : Status) (s : State) : (errorResult e s).status = e := by
  cases e <;> rfl

@[simp] theorem raiseError_lut (e : Status) (s : State) : (raiseError e s).lut = s.lut := rfl
@[simp] theorem raiseError_completed (e : Status) (s : State) : (raiseError e s).completed = true := rfl
@[simp] theorem raiseError_hostInputs (e : Status) (s : State) : (raiseError e s).hostInputs = s.hostInputs := rfl
@[simp] theorem raiseError_params (e : Status) (s : State) : (raiseError e s).params = s.params := rfl
@[simp] theorem raiseError_result (e : Status) (s : State) : (raiseError e s).result = errorResult e s := rfl

end Sys2Proof.Machine
end

