-- ==== Sys2Proof/Laws/Exec.lean ====
section
/-! SUPPORT. Everything an operation can do, said once: it delivers one record and changes nothing else; and the inversion
lemmas of ending an operation, of presenting a record and of a step. -/

namespace Sys2Proof.Machine

/-- Ending an operation either delivers the success record or raises the error found (60_exceptions.md R197). -/
theorem conclude_cases (check : Status) (r : Result) (s : State) :
    (check = .success ∧ conclude check r s = s.deliver r) ∨
      (check ≠ .success ∧ conclude check r s = s.deliver (errorResult check s)) := by
  cases check <;> simp [conclude, raiseError]

/-- What the two tests of a form find, in either order (60_exceptions.md R199). -/
theorem firstFailure_cases (lengthFirst lengthBad charBad : Bool) (e : Status) :
    (firstFailure lengthFirst lengthBad charBad e = .success ∧ lengthBad = false ∧ charBad = false) ∨
      (firstFailure lengthFirst lengthBad charBad e = .invalidLength ∧ lengthBad = true) ∨
      (firstFailure lengthFirst lengthBad charBad e = e ∧ charBad = true) := by
  cases lengthFirst <;> cases lengthBad <;> cases charBad <;> simp [firstFailure]

/-- With a good length the character test alone decides, whatever the order (60_exceptions.md R199). -/
theorem firstFailure_goodLength (lengthFirst charBad : Bool) (e : Status) :
    firstFailure lengthFirst false charBad e = if charBad then e else .success := by
  cases lengthFirst <;> rfl

/-- Every operation ends by delivering one record. -/
theorem exec_delivers (i : Instr) (s : State) : ∃ r, exec i s = .next (s.deliver r) := by
  have conclude_delivers : ∀ c r, ∃ q, conclude c r s = s.deliver q := fun c r => by
    rcases conclude_cases c r s with ⟨-, h⟩ | ⟨-, h⟩ <;> exact ⟨_, h⟩
  cases i <;>
    simp only [exec, execNesdec6, execNesdec8, execNesenc6, execNesenc8, execGbdec6, execGbdec9, execGbenc,
      execGeardec6, execGeardec9, execGearenc, execRsvddec, execRsvdenc, hexDecode6, hexDecode9,
      Host.Outcome.next.injEq] <;>
    first
      | exact conclude_delivers _ _
      | exact ⟨_, rfl⟩

/-- A presented record is refused for its size, or ends by delivering one record. -/
theorem present_cases (r : Operands) (s : State) :
    (r.presentable s.params = false ∧ present r s = .refused .operandOverCapacity) ∨
      (r.presentable s.params = true ∧ ∃ q, present r s = .next (s.deliver q)) := by
  unfold present
  cases hp : r.presentable s.params with
  | false => exact .inl ⟨rfl, by simp⟩
  | true =>
    refine .inr ⟨rfl, ?_⟩
    cases decode r with
    | ok i => simpa using exec_delivers i s
    | error e => cases e <;> exact ⟨_, rfl⟩

/-- A step that gives a next state waits, resets, or completes the operation presented first. -/
theorem step_cases {s t : State} (h : step s = .next t) :
    (s.hostInputs = [] ∧ t = s) ∨
      (∃ rest, s.hostInputs = .reset :: rest ∧ t = resetSignal { s with hostInputs := rest }) ∨
      (∃ r rest q, s.hostInputs = .op r :: rest ∧ r.presentable s.params = true ∧
        present r { s with hostInputs := rest } = .next t ∧
        t = State.deliver q { s with hostInputs := rest }) := by
  unfold step at h
  split at h
  next he =>
    obtain rfl : s = t := by simpa [waitForHost] using h
    exact .inl ⟨he, rfl⟩
  next rest he => exact .inr (.inl ⟨rest, he, by simpa using h.symm⟩)
  next r rest he =>
    rcases present_cases r { s with hostInputs := rest } with ⟨-, hp⟩ | ⟨hp, q, hq⟩
    · rw [hp] at h; cases h
    · exact .inr (.inr ⟨r, rest, q, he, hp, h, by rw [hq] at h; simpa using h.symm⟩)

/-- Every step keeps the canonical form of the lookup RAM: an operation does not write it and reset empties the list. -/
theorem step_keeps_lut_wf {s t : State} (hw : s.lut.wf = true) (h : step s = .next t) : t.lut.wf = true := by
  rcases step_cases h with ⟨-, rfl⟩ | ⟨rest, -, rfl⟩ | ⟨r, rest, q, -, -, -, rfl⟩
  · exact hw
  · exact wf_nil
  · exact hw

end Sys2Proof.Machine
end

