-- ==== Sys2Proof/Laws/Logic.lean ====
section
/-! SUPPORT. Small laws of characters, nibbles, dashes and wires (40_common_logic.md). -/

namespace Sys2Proof.Machine

/-- Folding twice is folding once (40_common_logic.md R90). -/
theorem upcase_upcase (ch : Byte) : upcase (upcase ch) = upcase ch := by revert ch; decide +kernel

/-- Folding keeps white space and digits what they are. -/
theorem classes_upcase (ch : Byte) : isWs (upcase ch) = isWs ch ∧ isDigit (upcase ch) = isDigit ch := by
  revert ch; decide +kernel

/-- Folding makes no dash and hides none. -/
theorem upcase_eq_dash (ch : Byte) : upcase ch = dash ↔ ch = dash := by revert ch; decide +kernel

/-- A character outside `a`..`z` is its own upper case. -/
theorem upcase_of_not_lower {ch : Byte} (h : ¬(0x61#8 ≤ ch ∧ ch ≤ 0x7A#8)) : upcase ch = ch := if_neg h

/-- Splitting a nibble and grouping its bits gives it back (40_common_logic.md R96; 00_scope.md R7). -/
theorem group_nibBit (n : Nibble) : group (nibBit n 0) (nibBit n 1) (nibBit n 2) (nibBit n 3) = n := by
  revert n; decide +kernel

/-- The bits of a group are the bits it was made of (00_scope.md R6, R7). -/
theorem nibBit_group (b0 b1 b2 b3 : Bool) :
    nibBit (group b0 b1 b2 b3) 0 = b0 ∧ nibBit (group b0 b1 b2 b3) 1 = b1 ∧
      nibBit (group b0 b1 b2 b3) 2 = b2 ∧ nibBit (group b0 b1 b2 b3) 3 = b3 := by
  revert b0 b1 b2 b3; decide +kernel

/-- The nibble the parity relation expects differs from symbol 6 in bit 0 only (43_hex_decode.md R155). -/
theorem expectedParity_eq (n : Nibble) : expectedParity n = n ^^^ 0b1000#4 := by revert n; decide +kernel

/-- A stripped string is its own stripped form (40_common_logic.md R100). -/
theorem strip_strip (s : Str) : strip (strip s) = strip s := by simp [strip]

/-- Stripping and folding commute. -/
theorem strip_map_upcase (s : Str) : strip (s.map upcase) = (strip s).map upcase := by
  induction s with
  | nil => rfl
  | cons c cs ih =>
    unfold strip at ih ⊢
    by_cases hc : c = dash
    · simp [hc, (upcase_eq_dash dash).2 rfl, ih]
    · simp [hc, mt (upcase_eq_dash c).1 hc, ih]

/-- A wired table has one output nibble per row. -/
theorem wired_length (table : List WireRow) (ins : List Nibble) (dc : Bool) :
    (wired table ins dc).length = table.length := by simp [wired]

end Sys2Proof.Machine
end

