-- ==== Sys2Proof/Laws/PerInstr.lean ====
section
/-! SUPPORT. The family EncodeFits, one lemma per constructor: the record that presents a well-formed operation fits the
ports it uses (70_reset_and_hazards.md R222, R227). -/

namespace Sys2Proof.Laws.EncodeFits

/-- The record that presents a well-formed operation is presentable. -/
def Statement (i : Instr) : Prop := ∀ p : Params, i.wellFormed p = true → (encode i).presentable p = true

theorem nesdec6 (code : Str) : Statement (.nesdec6 code) := fun p h => by
  simp only [Instr.wellFormed, Bool.and_eq_true] at h
  simp [Operands.presentable, encode, Operands.bare, platformOf, directionOf, h]

theorem nesdec8 (code : Str) : Statement (.nesdec8 code) := fun p h => by
  simp only [Instr.wellFormed, Bool.and_eq_true] at h
  simp [Operands.presentable, encode, Operands.bare, platformOf, directionOf, h]

theorem nesenc6 (addr value : Str) : Statement (.nesenc6 addr value) := fun p h => by
  simp only [Instr.wellFormed, Bool.and_eq_true] at h
  simp [Operands.presentable, encode, Operands.bare, platformOf, directionOf, h]

theorem nesenc8 (addr value cond : Str) : Statement (.nesenc8 addr value cond) := fun p h => by
  simp only [Instr.wellFormed, Bool.and_eq_true] at h
  simp [Operands.presentable, encode, Operands.bare, platformOf, directionOf, h]

theorem gbdec6 (code : Str) (optin : Bool) : Statement (.gbdec6 code optin) := fun p h => by
  simp only [Instr.wellFormed, Bool.and_eq_true] at h
  simp [Operands.presentable, encode, Operands.bare, platformOf, directionOf, h]

theorem gbdec9 (code : Str) (optin : Bool) : Statement (.gbdec9 code optin) := fun p h => by
  simp only [Instr.wellFormed, Bool.and_eq_true] at h
  simp [Operands.presentable, encode, Operands.bare, platformOf, directionOf, h]

theorem gbenc : Statement .gbenc := fun _ _ => rfl

theorem geardec6 (code : Str) (optin : Bool) : Statement (.geardec6 code optin) := fun p h => by
  simp only [Instr.wellFormed, Bool.and_eq_true] at h
  simp [Operands.presentable, encode, Operands.bare, platformOf, directionOf, h]

theorem geardec9 (code : Str) (optin : Bool) : Statement (.geardec9 code optin) := fun p h => by
  simp only [Instr.wellFormed, Bool.and_eq_true] at h
  simp [Operands.presentable, encode, Operands.bare, platformOf, directionOf, h]

theorem gearenc : Statement .gearenc := fun _ _ => rfl

theorem rsvddec : Statement .rsvddec := fun _ _ => rfl

theorem rsvdenc : Statement .rsvdenc := fun _ _ => rfl

end Sys2Proof.Laws.EncodeFits
end

