-- ==== Sys2Proof/Tests/Slice0.lean ====
section
/-! SUPPORT. Tests and witnesses. The expected results of the tests are taken from 95_test_vectors.md (V<n>) and from the
worked examples of the rules; a witness is a concrete state and operands that meet all hypotheses of a statement. -/

namespace Sys2Proof.Tests

-- One theorem at a time: the closed evaluations below would otherwise wait on each other, a thread each.
set_option Elab.async false

open Sys2Proof.Machine

/-! ## Helpers -/

/-- A state in which an operation has completed and the given inputs are lined up. -/
def lined (inputs : List HostInput) : State :=
  { State.reset with
    result := { blankResult with addr := 0x8000#16, invalidSymbols := false }, completed := true, hostInputs := inputs }

/-- Nothing lined up. -/
def idle : State := lined []

/-- `idle` with the character test first (92_eei_decisions.md D6, D7). -/
def symbolFirst : State := { idle with params := { lmax := 16, lengthBeforeSymbol := false } }

/-- The record of a decode. -/
def dec (cmd : BitVec 3) (code : String) (optin : Bool) : Operands :=
  { Operands.bare cmd with code := ascii code, ramOptin := optin }

/-- What a view of the result shows after a presented record, if there is a next state. -/
def shown {α : Type} (view : Result → α) (s : State) (r : Operands) : Option α :=
  match step { s with hostInputs := [.op r] } with
  | .next t => some (view t.result)
  | .fault _ => none
  | .refused _ => none

/-- STATUS after a presented record. -/
def statusOf (s : State) (r : Operands) : Option Status := shown (·.status) s r

/-! ## WellFormed: an ill-formed operation for each check -/

theorem test_smoke_nesdec6_length : (Instr.nesdec6 (ascii "SXIOP")).wellFormed ⟨16, true⟩ = false := by decide
theorem test_smoke_nesdec6_capacity : (Instr.nesdec6 (ascii "SXIOPO")).wellFormed ⟨5, true⟩ = false := by decide
theorem test_smoke_nesdec8_length : (Instr.nesdec8 (ascii "SXIOPO")).wellFormed ⟨16, true⟩ = false := by decide
theorem test_smoke_nesdec8_capacity : (Instr.nesdec8 (ascii "GZKATXSE")).wellFormed ⟨7, true⟩ = false := by decide
theorem test_smoke_nesenc6_capacity :
    (Instr.nesenc6 (List.replicate 17 0x30#8) []).wellFormed ⟨16, true⟩ = false ∧
      (Instr.nesenc6 [] (List.replicate 17 0x30#8)).wellFormed ⟨16, true⟩ = false := by decide
theorem test_smoke_nesenc8_capacity :
    (Instr.nesenc8 (List.replicate 17 0x30#8) [] []).wellFormed ⟨16, true⟩ = false ∧
      (Instr.nesenc8 [] (List.replicate 17 0x30#8) []).wellFormed ⟨16, true⟩ = false ∧
      (Instr.nesenc8 [] [] (List.replicate 17 0x30#8)).wellFormed ⟨16, true⟩ = false := by decide
theorem test_smoke_hex6_length :
    (Instr.gbdec6 (ascii "001-50") true).wellFormed ⟨16, true⟩ = false ∧
      (Instr.geardec6 (ascii "001-50") true).wellFormed ⟨16, true⟩ = false := by decide
theorem test_smoke_hex9_length :
    (Instr.gbdec9 (ascii "001-50F") true).wellFormed ⟨16, true⟩ = false ∧
      (Instr.geardec9 (ascii "001-50F-1A") true).wellFormed ⟨16, true⟩ = false := by decide
theorem test_smoke_hex_capacity :
    (Instr.gbdec6 (ascii "001507-----------") true).wellFormed ⟨16, true⟩ = false ∧
      (Instr.geardec6 (ascii "001507-----------") true).wellFormed ⟨16, true⟩ = false ∧
      (Instr.gbdec9 (ascii "001-50F-192------") true).wellFormed ⟨16, true⟩ = false ∧
      (Instr.geardec9 (ascii "001-50F-192------") true).wellFormed ⟨16, true⟩ = false := by decide

/-! ## Decoding records written out from 30_encoding.md R60 to R63, R70 -/

theorem test_decode_nesdec6 : decode (dec 0b000#3 "SXIOPO" false) = .ok (.nesdec6 (ascii "SXIOPO")) := by decide
theorem test_decode_nesdec8 : decode (dec 0b000#3 "GZKATXSE" false) = .ok (.nesdec8 (ascii "GZKATXSE")) := by decide
theorem test_decode_nesenc6 :
    decode { Operands.bare 0b001#3 with addrStr := ascii "91D9", valStr := ascii "AD", condStr := ascii "00" } =
      .ok (.nesenc6 (ascii "91D9") (ascii "AD")) := by decide
theorem test_decode_nesenc8 :
    decode { Operands.bare 0b001#3 with
      addrStr := ascii "91D9", valStr := ascii "AD", condPresent := true, condStr := ascii "00" } =
      .ok (.nesenc8 (ascii "91D9") (ascii "AD") (ascii "00")) := by decide
theorem test_decode_gbdec6 : decode (dec 0b010#3 "001-507" true) = .ok (.gbdec6 (ascii "001-507") true) := by decide
theorem test_decode_gbdec9 : decode (dec 0b010#3 "00150F192" false) = .ok (.gbdec9 (ascii "00150F192") false) := by
  decide
theorem test_decode_gbenc : decode (dec 0b011#3 "001-507" false) = .ok .gbenc := by decide
theorem test_decode_geardec6 : decode (dec 0b100#3 "001-507" false) = .ok (.geardec6 (ascii "001-507") false) := by
  decide
theorem test_decode_geardec9 :
    decode (dec 0b100#3 "001-50F-192" true) = .ok (.geardec9 (ascii "001-50F-192") true) := by decide
theorem test_decode_gearenc : decode (dec 0b101#3 "" false) = .ok .gearenc := by decide
theorem test_decode_rsvddec : decode (dec 0b110#3 "SXIOPO" false) = .ok .rsvddec := by decide
theorem test_decode_rsvdenc : decode (dec 0b111#3 "SXIOPO" false) = .ok .rsvdenc := by decide
theorem test_decode_no_variant :
    decode (dec 0b000#3 "SXIOPOA" false) = .error .nesNoVariant ∧
      decode (dec 0b000#3 "SXIO-PO" false) = .error .nesNoVariant ∧
      decode (dec 0b010#3 "---" false) = .error .hexNoVariant ∧
      decode (dec 0b100#3 "001-50F-19" false) = .error .hexNoVariant := by decide

/-- The words of the opcode table: CMD alone, at the shortest variant (log entry 2). -/
theorem test_table_words :
    [0, 1, 2, 3, 4, 5, 6, 7].map (decodeTableWord 8) =
      [some (.nesdec6 (ascii "AAAAAA")), some (.nesenc6 (ascii "0000") (ascii "00")),
        some (.gbdec6 (ascii "000000") true), some .gbenc, some (.geardec6 (ascii "000000") true), some .gearenc,
        some .rsvddec, some .rsvdenc] := by decide

/-- The step after `withFetchWord` runs the word's operation: V60's family with symbol 5 = 0000 and the opt-in gives
address F000. -/
theorem test_fetch_word_runs :
    (match step (State.reset.withFetchWord 8 2) with
      | .next t => some (t.result.status, t.result.addr, t.result.ramTargeted, t.hostInputs)
      | _ => none) = some (.success, 0xF000#16, true, []) := by decide

/-! ## The lookup RAM and the shared logic -/

/-- 10_state.md R21, R22: the ASCII rows spell the two alphabets. -/
theorem test_alphabets : alphaNes = ascii "APZLGITYEOXUKSVN" ∧ alphaHex = ascii "0123456789ABCDEF" := by decide
/-- V111, V113. -/
theorem test_lutFind :
    lutFind [] .nes 0x4E#8 = (true, 0xF#4) ∧ lutFind [] .nes 0x41#8 = (true, 0#4) ∧
      lutFind [] .nes 0x42#8 = (false, 0#4) ∧ lutFind [] .nes 0x6E#8 = (false, 0#4) ∧
      lutFind [] .hex 0x46#8 = (true, 0xF#4) ∧ lutFind [] .hex 0x47#8 = (false, 0#4) := by decide
/-- V110, V117. -/
theorem test_classes :
    [0x61#8, 0x7A#8, 0x41#8, 0x2D#8, 0x60#8, 0x7B#8].map upcase = [0x41#8, 0x5A#8, 0x41#8, 0x2D#8, 0x60#8, 0x7B#8] ∧
      [0x09#8, 0x0D#8, 0x0E#8, 0x20#8, 0xA0#8].map isWs = [true, true, false, true, false] := by decide
/-- V112, V114, and the examples of R94. -/
theorem test_nibbles :
    nibNes [] 0x6E#8 = (true, 0xF#4) ∧ nibNes [] 0x78#8 = (true, 0b1010#4) ∧ hexdigit [] 0b1010#4 = 0x41#8 ∧
      hexdigit [] 0#4 = 0x30#8 := by decide
/-- V115, V116, and the corner cases of R100. -/
theorem test_dashes :
    strip (ascii "-0-") = ascii "0" ∧ strip (ascii "0-0-1-5-0-F") = ascii "00150F" ∧
      dashed (ascii "ABCDEF") = ascii "ABC-DEF" ∧ dashed (ascii "ABCDEF012") = ascii "ABC-DEF-012" := by decide

/-! ## The operations -/

/-- V1. -/
theorem test_nesdec6 :
    shown specifiedPart State.reset (dec 0 "SXIOPO" false) =
      some { blankResult with addr := 0x91D9#16, value := 0xAD#8 } := by decide +kernel
/-- V16. -/
theorem test_nesdec6_unmapped :
    shown specifiedPart State.reset (dec 0 "SXIOPB" false) =
      some { blankResult with
        addr := 0x90D9#16, value := 0xA5#8, invalidSymbols := true, replacementCode := some (ascii "SXIOPA") } := by
  decide +kernel
/-- V24. -/
theorem test_nesdec8 :
    shown specifiedPart State.reset (dec 0 "GZKATXSE" false) =
      some { blankResult with addr := 0x8246#16, condition := 0x8D#8, value := 0x2C#8, condValid := true } := by
  decide +kernel
/-- V28. -/
theorem test_nesdec8_unmapped :
    shown specifiedPart State.reset (dec 0 "SXIOPOQ!" false) =
      some { blankResult with
        addr := 0x91D9#16, condition := 0x08#8, value := 0xA5#8, condValid := true, invalidSymbols := true,
        replacementCode := some (ascii "SXIOPOAA") } := by decide +kernel
/-- V40. -/
theorem test_nesenc6 :
    shown specifiedPart State.reset (encode (.nesenc6 (ascii "91D9") (ascii "AD"))) =
      some { blankResult with
        primaryCode := some (ascii "SXIOPO"), siblingCode := some (ascii "SXSOPO") } := by decide +kernel
/-- V52. -/
theorem test_nesenc6_length :
    statusOf State.reset (encode (.nesenc6 (ascii "91D") (ascii "AD"))) = some .invalidDigit := by decide +kernel
/-- V44, V45. -/
theorem test_nesenc8 :
    shown specifiedPart State.reset (encode (.nesenc8 (ascii "91D9") (ascii "AD") (ascii "00"))) =
        some { blankResult with
          primaryCode := some (ascii "SXIOPPAE"), siblingCode := some (ascii "SXSOPPAE") } ∧
      shown specifiedPart State.reset (encode (.nesenc8 (ascii "91D9") (ascii "AD") (ascii "AD"))) =
        some { blankResult with
          noOp := true, primaryCode := some (ascii "SXIOPOSX"), siblingCode := some (ascii "SXSOPOSX") } := by
  decide +kernel
/-- V56. -/
theorem test_nesenc8_digit :
    statusOf State.reset (encode (.nesenc8 (ascii "91D9") (ascii "AD") (ascii "1Z"))) = some .invalidDigit := by
  decide +kernel
/-- V60. -/
theorem test_gbdec6 :
    shown specifiedPart State.reset (dec 2 "001-50F" false) =
      some { blankResult with addr := 0x0150#16, displayCode := some (ascii "001-50F") } := by decide +kernel
/-- V65, V7. -/
theorem test_gbdec6_ram :
    shown specifiedPart State.reset (dec 2 "001-507" false) =
        some { blankResult with status := .ramTargetDeclined, ramTargeted := true } ∧
      shown specifiedPart State.reset (dec 2 "001-507" true) =
        some { blankResult with
          addr := 0x8150#16, ramTargeted := true, displayCode := some (ascii "001-507") } := by decide +kernel
/-- V81. -/
theorem test_gbdec9 :
    shown specifiedPart State.reset (dec 2 "001-50F-1A2" false) =
      some { blankResult with
        addr := 0x0150#16, condition := 0x3E#8, condValid := true, parityMismatch := true,
        correctedCode := some (ascii "001-50F-192"), displayCode := some (ascii "001-50F-1A2") } := by decide +kernel
/-- V83. -/
theorem test_gbdec9_noop :
    shown specifiedPart State.reset (dec 2 "3E1-50F-192" false) =
      some { blankResult with
        addr := 0x0150#16, condition := 0x3E#8, value := 0x3E#8, condValid := true, noOp := true,
        displayCode := some (ascii "3E1-50F-192") } := by decide +kernel
/-- V71. -/
theorem test_geardec6 :
    shown specifiedPart State.reset (dec 4 "123-456" false) =
      some { blankResult with
        addr := 0x9345#16, value := 0x12#8, displayCode := some (ascii "123-456") } := by decide +kernel
/-- V67, V68: the threshold edge. -/
theorem test_geardec6_ram :
    shown specifiedPart State.reset (dec 4 "001-504" false) =
        some { blankResult with addr := 0xB150#16, displayCode := some (ascii "001-504") } ∧
      statusOf State.reset (dec 4 "001-503" false) = some .ramTargetDeclined := by decide +kernel
/-- V90. -/
theorem test_geardec9 :
    shown specifiedPart State.reset (dec 4 "abc-def-0a2" false) =
      some { blankResult with
        addr := 0x0CDE#16, condition := 0x3A#8, value := 0xAB#8, condValid := true, parityMismatch := true,
        correctedCode := some (ascii "ABC-DEF-082"), displayCode := some (ascii "ABC-DEF-0A2") } := by decide +kernel
/-- V88. -/
theorem test_geardec9_ram :
    shown specifiedPart State.reset (dec 4 "000-000-080" true) =
      some { blankResult with
        addr := 0xF000#16, condition := 0xBA#8, condValid := true, ramTargeted := true,
        displayCode := some (ascii "000-000-080") } := by decide +kernel
/-- V101, V102, V103, V104. -/
theorem test_unsupported :
    statusOf State.reset { Operands.bare 3 with addrStr := ascii "zz" } = some .notSupported ∧
      statusOf State.reset { Operands.bare 5 with addrStr := ascii "0150", valStr := ascii "00" } =
        some .notSupported ∧
      statusOf State.reset (dec 6 "SXIOPO" false) = some .notSupported ∧
      statusOf State.reset (Operands.bare 7) = some .notSupported := by decide +kernel
/-- V21 and V79, with the length first and with the character first. -/
theorem test_order_of_tests :
    statusOf State.reset (dec 0 "SXIOP0A" false) = some .invalidLength ∧
      statusOf symbolFirst (dec 0 "SXIOP0A" false) = some .invalidSymbol ∧
      statusOf State.reset (dec 2 "00G-50" true) = some .invalidLength ∧
      statusOf symbolFirst (dec 2 "00G-50" true) = some .notHexadecimal := by decide +kernel
/-- R227: a string over LMAX that the operation reads is refused, one it does not read makes no difference. -/
theorem test_capacity :
    step (lined [.op (dec 2 "00150F-----------" false)]) = .refused .operandOverCapacity ∧
      statusOf idle { dec 2 "001-50F" false with addrStr := List.replicate 17 0x30#8 } = some .success :=
  ⟨rfl, by decide +kernel⟩
/-- R220: a reset between operations. -/
theorem test_reset_signal :
    (match step { lined [.reset] with lut := [(3, 0x58#8)] } with
      | .next t => some (t.lut, t.completed)
      | _ => none) = some ([], false) := by decide +kernel

/-! ## Witnesses: the states and tables -/

theorem idle_alphabets : LutInvariant [] where
  nesBijective := by decide +kernel
  hexBijective := by decide +kernel
  upperCase t k := by cases t <;> revert k <;> decide +kernel
  noWhiteSpace t k := by cases t <;> revert k <;> decide +kernel
  noDash t k := by cases t <;> revert k <;> decide +kernel
  nesNoDigit := by decide +kernel

/-- A state that meets the invariant, with a completed operation and any inputs lined up. -/
theorem lined_inv (inputs : List HostInput) : Inv (lined inputs) where
  canonical := rfl
  fixed := read_nil
  params := show 11 ≤ 16 by decide +kernel
  strings := by simp [lined, blankResult, StringsFit]
  coherent _ := { onSuccess := fun _ => by constructor <;> simp [lined, blankResult], onDeclined := nofun }

/-! ## Witnesses of the statements -/

/-- AlphabetsHoldTheirSymbols, TablesAreBijections, CharacterClasses, NibNesMapsSymbols, HexdigitsAreUpperCase: a state
with the invariant, and for each clause of NibNesMapsSymbols a character (`s` of nibble 13; `B`). -/
theorem witness_invariant_statements :
    Inv idle ∧ upcase 0x73#8 = (ascii "APZLGITYEOXUKSVN").getD (13#4).toNat 0#8 ∧
      upcase 0x42#8 ∉ ascii "APZLGITYEOXUKSVN" := ⟨lined_inv [], by decide +kernel, by decide +kernel⟩

/-- StepKeepsInvariant: a wait, a reset, an operation and an operation that fails. -/
theorem witness_StepKeepsInvariant :
    (∀ inputs, Inv (lined inputs)) ∧ (∃ t, step idle = .next t) ∧ (∃ t, step (lined [.reset]) = .next t) ∧
      (∃ t, step (lined [.op (dec 0 "SXIOPB" false)]) = .next t) ∧
      ∃ t, step (lined [.op (dec 2 "001-507" false)]) = .next t :=
  ⟨lined_inv, ⟨_, rfl⟩, ⟨_, rfl⟩, ⟨_, rfl⟩, _, rfl⟩

theorem witness_ResetSignalRestoresTables :
    (lined [.reset, .op (dec 0 "SXIOPO" false)]).hostInputs = .reset :: [.op (dec 0 "SXIOPO" false)] := rfl

theorem witness_LutFindIsReverseLookup :
    TableBijective [] .nes ∧ TableBijective [] .hex ∧ (∀ k, lutSym [] .nes k ≠ 0x42#8) ∧
      lutSym [] .nes 15 = 0x4E#8 ∧ ∀ j, j < 15#4 → lutSym [] .nes j ≠ 0x4E#8 := by decide +kernel

/-- UpcaseFoldsLettersOnly: the edges of both clauses. -/
theorem witness_UpcaseFoldsLettersOnly :
    (0x61 ≤ (0x61#8).toNat ∧ (0x61#8).toNat ≤ 0x7A) ∧ (0x61 ≤ (0x7A#8).toNat ∧ (0x7A#8).toNat ≤ 0x7A) ∧
      (0x60#8).toNat < 0x61 ∧ 0x7A < (0x7B#8).toNat := by decide +kernel

theorem witness_StripRemovesEveryDash : (0x2E#8 : Byte) ≠ dash := by decide +kernel

theorem witness_PatchTextAgreesWithBits : LutInvariant idle.lut := idle_alphabets

/-- VariantSelection: a record for each clause. -/
theorem witness_VariantSelection :
    ((dec 0b000#3 "SXIOPO" false).code.length = 6 ∧ (dec 0b000#3 "GZKATXSE" false).code.length = 8 ∧
        (dec 0b000#3 "SXIOPOA" false).code.length = 7) ∧
      ((encode (.nesenc6 [] [])).cmd = 0b001#3 ∧ (encode (.nesenc6 [] [])).condPresent = false ∧
        (encode (.nesenc8 [] [] [])).cmd = 0b001#3 ∧ (encode (.nesenc8 [] [] [])).condPresent = true) ∧
      ∀ cmd ∈ [0b010#3, 0b100#3], (strip (dec cmd "001-507" false).code).length = 6 ∧
        (strip (dec cmd "001-50F-192" false).code).length = 9 ∧ (strip (dec cmd "001-50" false).code).length = 5 ∧
        (dec cmd "" false).cmd = cmd := by decide +kernel

/-- DecodeEncodeAgree: a well-formed operation of every constructor. -/
theorem witness_DecodeEncodeAgree :
    ∀ i ∈ [Instr.nesdec6 (ascii "SXIOPO"), .nesdec8 (ascii "GZKATXSE"), .nesenc6 (ascii "91D9") (ascii "AD"),
        .nesenc8 (ascii "91D9") (ascii "AD") (ascii "1Z"), .gbdec6 (ascii "001-507") true,
        .gbdec9 (ascii "001-50F-192") false, .gbenc, .geardec6 (ascii "001507") false,
        .geardec9 (ascii "00150F192") true, .gearenc, .rsvddec, .rsvdenc],
      i.wellFormed ⟨16, true⟩ = true := by decide +kernel

/-- EncodeReproducesReadFields: a record for each clause. -/
theorem witness_EncodeReproducesReadFields :
    (∃ i, decode (dec 0b000#3 "SXIOPO" true) = .ok i ∧ (dec 0b000#3 "SXIOPO" true).presentable ⟨16, true⟩ = true ∧
        directionOf 0b000#3 = .decode ∧ platformOf 0b000#3 ≠ .reserved) ∧
      (∃ i, decode (dec 0b010#3 "001-507" true) = .ok i) ∧ (∃ i, decode (dec 0b100#3 "001-507" true) = .ok i) ∧
      (∃ i, decode { Operands.bare 0b001#3 with condPresent := true, condStr := ascii "00" } = .ok i) :=
  ⟨⟨_, rfl, by decide +kernel, by decide +kernel, by decide +kernel⟩, ⟨_, rfl⟩, ⟨_, rfl⟩, _, rfl⟩

theorem witness_StepRunsDecodedOperation :
    (lined [.op (dec 0 "SXIOPO" false)]).hostInputs = .op (dec 0 "SXIOPO" false) :: [] ∧
      (dec 0 "SXIOPO" false).presentable idle.params = true ∧
      decode (dec 0 "SXIOPO" false) = .ok (.nesdec6 (ascii "SXIOPO")) := by decide +kernel

theorem witness_StepWaitsForHost : idle.hostInputs = [] := rfl

/-- NoVariantRaisesInOrder: both errors, both orders of the tests, clean and unclean codes. -/
theorem witness_NoVariantRaisesInOrder :
    ({ symbolFirst with hostInputs := [.op (dec 0 "SXIOP0A" false)] } : State).hostInputs =
        .op (dec 0 "SXIOP0A" false) :: [] ∧
      symbolFirst.params.lengthBeforeSymbol = false ∧ idle.params.lengthBeforeSymbol = true ∧
      (∀ code ∈ ["SXIOP0A", "SXIOPOA", ""], (dec 0 code false).presentable idle.params = true ∧
        decode (dec 0 code false) = .error .nesNoVariant) ∧
      (∀ code ∈ ["00G-50", "001-50", "---"], (dec 2 code false).presentable idle.params = true ∧
        decode (dec 2 code false) = .error .hexNoVariant) ∧
      ¬NesClean (ascii "SXIOP0A") ∧ NesClean (ascii "SXIOPOA") ∧ ¬AllHex [] (strip (ascii "00G-50")) ∧
      AllHex [] (strip (ascii "001-50")) := by decide +kernel

/-- PresentableRecordsComplete: a string of LMAX characters and one of LMAX + 1. -/
theorem witness_PresentableRecordsComplete :
    (lined [.op (dec 2 "00150F----------" false)]).hostInputs = .op (dec 2 "00150F----------" false) :: [] ∧
      (dec 2 "00150F----------" false).presentable idle.params = true ∧
      (lined [.op (dec 2 "00150F-----------" false)]).hostInputs = .op (dec 2 "00150F-----------" false) :: [] ∧
      (dec 2 "00150F-----------" false).presentable idle.params = false := by decide +kernel

/-- UnreadFieldsHaveNoEffect: a record whose unread fields are not those `encode` gives. -/
theorem witness_UnreadFieldsHaveNoEffect :
    ∃ r i, decode r = .ok i ∧ r.presentable idle.params = true ∧ r ≠ encode i :=
  ⟨{ dec 0 "SXIOPO" true with addrStr := List.replicate 17 0x30#8 }, _, rfl, by decide +kernel, by decide +kernel⟩

theorem witness_Nesdec6Decodes :
    (dec 0b000#3 "SXIOPO" false).cmd = 0b000#3 ∧ (ascii "SXIOPO").length = 6 ∧ NesClean (ascii "SXIOPO") ∧
      (ascii "SXIOPB").length = 6 ∧ NesClean (ascii "SXIOPB") ∧ (ascii "SXIOP0").length = 6 ∧
      ¬NesClean (ascii "SXIOP0") := by decide +kernel

theorem witness_Nesdec8Decodes :
    (dec 0b000#3 "SXIOPOQ!" false).cmd = 0b000#3 ∧ (ascii "SXIOPOQ!").length = 8 ∧ NesClean (ascii "SXIOPOQ!") ∧
      (ascii "SXIO POO").length = 8 ∧ ¬NesClean (ascii "SXIO POO") := by decide +kernel

theorem witness_WhiteSpaceOrDigitRaises :
    (ascii "SXIO-B").length = 6 ∧ (ascii "SXIO POO").length = 8 ∧
      ∃ ch ∈ ascii "SXIO POO", isWs ch = true ∨ isDigit ch = true := by decide +kernel

/-- ReplacementDecodesAlike, unconditional and conditional. -/
theorem witness_ReplacementDecodesAlike :
    LutInvariant idle.lut ∧ (Instr.nesdec6 (ascii "SXIOPB")).wellFormed ⟨16, true⟩ = true ∧
      (∃ t, exec (.nesdec6 (ascii "SXIOPB")) idle = .next t ∧ t.result.status = .success ∧
        t.result.invalidSymbols = true) ∧
      (Instr.nesdec8 (ascii "SXIOPOQ!")).wellFormed ⟨16, true⟩ = true ∧
      ∃ t, exec (.nesdec8 (ascii "SXIOPOQ!")) idle = .next t ∧ t.result.status = .success ∧
        t.result.invalidSymbols = true ∧ t.result.condValid = true :=
  ⟨idle_alphabets, by decide +kernel, ⟨_, rfl, by decide +kernel, by decide +kernel⟩, by decide +kernel, _, rfl,
    by decide +kernel, by decide +kernel, by decide +kernel⟩

/-- ThirdSymbolTopBitIgnored: symbol 2 of nibble 0000 against `E`, and of nibble 1111 against `Y`. -/
theorem witness_ThirdSymbolTopBitIgnored :
    NesClean (ascii "AAAAAA") ∧ NesClean (ascii "NNNNNNNN") ∧ NesClean [0x45#8] ∧ NesClean [0x59#8] ∧
      (nibNes [] 0x45#8).2 = nesSym [] (ascii "AAAAAA") 2 ^^^ 0b1000#4 ∧
      (nibNes [] 0x59#8).2 = nesSym [] (ascii "NNNNNNNN") 2 ^^^ 0b1000#4 ∧ (ascii "AAAAAA").length = 6 ∧
      (ascii "NNNNNNNN").length = 8 := by decide +kernel

/-- NesPatchesAreTheUpperHalf: decodes of both lengths, and the edges of the range. -/
theorem witness_NesPatchesAreTheUpperHalf :
    (∃ t, exec (.nesdec6 (ascii "AAAAAA")) idle = .next t ∧ t.result.status = .success) ∧
      (∃ t, exec (.nesdec8 (ascii "NNNNNNNN")) idle = .next t ∧ t.result.status = .success) ∧
      LutInvariant idle.lut ∧ 0x8000#16 ≤ 0x8000#16 ∧ 0x8000#16 ≤ 0xFFFF#16 :=
  ⟨⟨_, rfl, by decide +kernel⟩, ⟨_, rfl, by decide +kernel⟩, idle_alphabets, by decide +kernel, by decide +kernel⟩

/-- Nesenc6Encodes, Nesenc8Encodes, NoOpOnEncode (value equal to the condition, in the other case, and not equal). -/
theorem witness_encode_statements :
    (ascii "91D9").length = 4 ∧ (ascii "AD").length = 2 ∧ (ascii "ad").length = 2 ∧
      AllHex idle.lut (ascii "91D9" ++ ascii "AD") ∧ AllHex idle.lut (ascii "ad") ∧
      AllHex idle.lut (ascii "91D9" ++ ascii "AD" ++ ascii "00") ∧ AllHex idle.lut (ascii "00") ∧
      digitNib idle.lut (ascii "AD") 0 ++ digitNib idle.lut (ascii "AD") 1 =
        digitNib idle.lut (ascii "ad") 0 ++ digitNib idle.lut (ascii "ad") 1 ∧
      digitNib idle.lut (ascii "AD") 0 ++ digitNib idle.lut (ascii "AD") 1 ≠
        digitNib idle.lut (ascii "00") 0 ++ digitNib idle.lut (ascii "00") 1 := by decide +kernel

/-- PrimaryAndSiblingPair, SiblingInvariant: an encode without and one with a condition. -/
theorem witness_sibling_statements :
    Inv idle ∧ LutInvariant idle.lut ∧
      (∃ t, exec (.nesenc6 (ascii "FFFF") (ascii "FF")) idle = .next t ∧ t.result.status = .success) ∧
      ∃ t, exec (.nesenc8 (ascii "8000") (ascii "00") (ascii "00")) idle = .next t ∧ t.result.status = .success :=
  ⟨lined_inv [], idle_alphabets, ⟨_, rfl, by decide +kernel⟩, _, rfl, by decide +kernel⟩

theorem witness_AddressBit15Ignored :
    (ascii "FFFF").length = 4 ∧ (ascii "7FFF").length = 4 ∧ AllHex idle.lut (ascii "FFFF" ++ ascii "7FFF") ∧
      digitNib idle.lut (ascii "7FFF") 0 = digitNib idle.lut (ascii "FFFF") 0 ^^^ 0b1000#4 ∧
      ∀ i, i = 1 ∨ i = 2 ∨ i = 3 → digitNib idle.lut (ascii "7FFF") i = digitNib idle.lut (ascii "FFFF") i := by
  refine ⟨rfl, rfl, by decide +kernel, by decide +kernel, ?_⟩
  rintro i (rfl | rfl | rfl) <;> decide +kernel

/-- EncodeThenDecode: both edges of the valid range, with a condition. -/
theorem witness_EncodeThenDecode :
    LutInvariant idle.lut ∧ ∀ addr ∈ [ascii "8000", ascii "FFFF"], addr.length = 4 ∧ (ascii "ad").length = 2 ∧
      AllHex idle.lut (addr ++ ascii "ad") ∧ AllHex idle.lut (ascii "1B") ∧ (ascii "1B").length = 2 ∧
      0x8000#16 ≤ digitNib idle.lut addr 0 ++ digitNib idle.lut addr 1 ++ digitNib idle.lut addr 2 ++
        digitNib idle.lut addr 3 := ⟨idle_alphabets, by decide +kernel⟩

/-- DecodeThenEncode: both lengths, with bit 0 of symbol 2 being 0 and 1. -/
theorem witness_DecodeThenEncode :
    LutInvariant idle.lut ∧ ∀ code ∈ [ascii "SXIOPO", ascii "sxsopo", ascii "SXIOPOSX", ascii "SXSOPOSX"],
      (∀ ch ∈ code, (nibNes idle.lut ch).1 = true) ∧ (code.length = 6 ∨ code.length = 8) ∧
      (nibBit (nesSym idle.lut code 2) 0 = true ↔ code ∈ [ascii "sxsopo", ascii "SXSOPOSX"]) :=
  ⟨idle_alphabets, by decide +kernel⟩

/-- HexDecode6, RamTargetOptIn: the largest failing and the smallest passing symbol 5 of both thresholds. -/
theorem witness_hex6_statements :
    (∀ code ∈ [ascii "001-507", ascii "001-508", ascii "001-503", ascii "001-504"],
      (strip code).length = 6 ∧ AllHex idle.lut (strip code) ∧
      (Instr.gbdec6 code true).wellFormed ⟨16, true⟩ = true ∧
      (Instr.geardec6 code true).wellFormed ⟨16, true⟩ = true) ∧
      hexSym idle.lut (ascii "001-507") 5 < 8 ∧ ¬hexSym idle.lut (ascii "001-508") 5 < 8 ∧
      hexSym idle.lut (ascii "001-503") 5 < 4 ∧ ¬hexSym idle.lut (ascii "001-504") 5 < 4 := by decide +kernel

/-- HexDecode9, ConditionIsARotation, RamTargetOptIn: both sides of both thresholds, right and wrong parity digit. -/
theorem witness_hex9_statements :
    (∀ code ∈ [ascii "001-507-192", ascii "001-508-192", ascii "001-503-1A2", ascii "001-504-1A2"],
      (strip code).length = 9 ∧ AllHex idle.lut (strip code) ∧
      (Instr.gbdec9 code true).wellFormed ⟨16, true⟩ = true ∧
      (Instr.geardec9 code true).wellFormed ⟨16, true⟩ = true) ∧
      hexSym idle.lut (ascii "001-507-192") 5 < 8 ∧ ¬hexSym idle.lut (ascii "001-508-192") 5 < 8 ∧
      hexSym idle.lut (ascii "001-503-1A2") 5 < 4 ∧ ¬hexSym idle.lut (ascii "001-504-1A2") 5 < 4 ∧
      hexSym idle.lut (ascii "001-507-192") 7 = hexSym idle.lut (ascii "001-507-192") 6 ^^^ 0b1000#4 ∧
      hexSym idle.lut (ascii "001-503-1A2") 7 ≠ hexSym idle.lut (ascii "001-503-1A2") 6 ^^^ 0b1000#4 := by
  decide +kernel

/-- NotHexadecimalExactly: good codes and codes with a `G`, for each operation. -/
theorem witness_NotHexadecimalExactly :
    (∀ code ∈ [ascii "001-507", ascii "00G-507"], (Instr.gbdec6 code true).wellFormed ⟨16, true⟩ = true ∧
        (Instr.geardec6 code true).wellFormed ⟨16, true⟩ = true) ∧
      (∀ code ∈ [ascii "001-50F-192", ascii "001-50F-19G"],
        (Instr.gbdec9 code true).wellFormed ⟨16, true⟩ = true ∧
        (Instr.geardec9 code true).wellFormed ⟨16, true⟩ = true) := by decide +kernel

/-- RamTargetIsAnAddressClass: successful decodes of 0x7FFF and 0x8000 by gb, of 0xBFFF and 0xC000 by gear. -/
theorem witness_RamTargetIsAnAddressClass :
    (∀ i ∈ [(Instr.gbdec6 (ascii "00F-FF8") true, 0x7FFF#16), (Instr.gbdec9 (ascii "000-007-192") true, 0x8000#16),
        (Instr.geardec6 (ascii "00F-FF4") true, 0xBFFF#16), (Instr.geardec9 (ascii "000-003-192") true, 0xC000#16)],
      (match exec i.1 idle with
        | .next t => some (t.result.status, t.result.addr)
        | _ => none) = some (.success, i.2)) := by decide +kernel

/-- CorrectedCodeDecodesAlike: a decode with a wrong parity digit, for both operations. -/
theorem witness_CorrectedCodeDecodesAlike :
    LutInvariant idle.lut ∧ ∀ op ∈ [Instr.gbdec9, Instr.geardec9],
      (op (ascii "abc-def-0a2") false).wellFormed ⟨16, true⟩ = true ∧
      ∃ t, exec (op (ascii "abc-def-0a2") false) idle = .next t ∧ t.result.status = .success ∧
        t.result.parityMismatch = true := by
  refine ⟨idle_alphabets, ?_⟩
  simp only [List.forall_mem_cons, List.not_mem_nil, false_implies, implies_true, and_true]
  exact ⟨⟨by decide +kernel, _, rfl, by decide +kernel, by decide +kernel⟩, by decide +kernel, _, rfl,
    by decide +kernel, by decide +kernel⟩

theorem witness_HexGatherIsABijection : LutInvariant idle.lut := idle_alphabets

theorem witness_CaseAndDashesAreFormatting :
    (strip (ascii "001-50f")).map upcase = (strip (ascii "0-0-1-5-0-F")).map upcase := by decide +kernel

/-- NoOpOnDecode, InvalidFlagByOperation: a successful run of every operation they name. -/
theorem witness_decode_success :
    ∀ i ∈ [Instr.nesdec6 (ascii "SXIOPB"), .nesdec8 (ascii "AAAAAAAA"), .gbdec6 (ascii "001-50F") false,
        .gbdec9 (ascii "3E1-50F-192") false, .geardec6 (ascii "001-50F") false,
        .geardec9 (ascii "001-50F-1A2") false, .nesenc6 (ascii "8000") (ascii "00"),
        .nesenc8 (ascii "8000") (ascii "00") (ascii "00")],
      (match exec i idle with
        | .next t => some t.result.status
        | _ => none) = some .success := by decide +kernel

/-- UnsupportedIgnoresOperands, ErrorKindsByCommand: a record of each command completes, and one ends in
InvalidLength. -/
theorem witness_every_command :
    (∀ cmd : BitVec 3, ∃ t, present (wordOperands cmd.toNat) idle = .next t ∧ (wordOperands cmd.toNat).cmd = cmd) ∧
      ∃ t, present (dec 0 "SXIOP" false) idle = .next t ∧ t.result.status = .invalidLength := by
  refine ⟨fun cmd => ?_, _, rfl, by decide +kernel⟩
  rcases present_cases (wordOperands cmd.toNat) idle with ⟨h, -⟩ | ⟨-, q, hq⟩
  · have hp : ∀ c : BitVec 3, (wordOperands c.toNat).presentable idle.params = true := by decide +kernel
    rw [hp cmd] at h; cases h
  · exact ⟨_, hq, by simp [wordOperands]⟩

/-- OperationFrame, and StepFrame with and without a reset. -/
theorem witness_frames :
    (∃ t, exec (.gbdec9 (ascii "001-50F-1A2") false) idle = .next t) ∧ (∃ t, step (lined [.reset]) = .next t) ∧
      (lined [.reset]).hostInputs.head? = some .reset ∧
      (∃ t, step (lined [.op (dec 0 "SXIOPO" false)]) = .next t) ∧
      (lined [.op (dec 0 "SXIOPO" false)]).hostInputs.head? ≠ some .reset :=
  ⟨⟨_, rfl⟩, ⟨_, rfl⟩, rfl, ⟨_, rfl⟩, by decide +kernel⟩

/-- HistoryIndependence: two states with different histories. -/
theorem witness_HistoryIndependence :
    ∃ s1 s2 t1 t2 : State, (∀ a : BitVec 5, s1.lut.read a = s2.lut.read a) ∧ s1.params = s2.params ∧
      s1.result ≠ s2.result ∧ s1.draw ≠ s2.draw ∧ s1.hostInputs = .op (dec 0 "SXIOPO" false) :: [.reset] ∧
      s2.hostInputs = .op (dec 0 "SXIOPO" false) :: [] ∧ step s1 = .next t1 ∧ step s2 = .next t2 :=
  ⟨lined [.op (dec 0 "SXIOPO" false), .reset],
    { State.reset with hostInputs := [.op (dec 0 "SXIOPO" false)], draw := 7 }, _, _, fun _ => rfl, rfl,
    by decide +kernel, by decide +kernel, rfl, rfl, rfl, rfl⟩

/-- FailedOperationLeavesNoTrace: an operation that fails, then one that succeeds. -/
theorem witness_FailedOperationLeavesNoTrace :
    ∃ s t u : State, s.hostInputs = .op (dec 2 "001-507" false) :: .op (dec 2 "001-507" true) :: [] ∧
      step s = .next t ∧ t.result.status = .ramTargetDeclined ∧ step t = .next u ∧ u.result.status = .success :=
  ⟨lined [.op (dec 2 "001-507" false), .op (dec 2 "001-507" true)], _, _, rfl, rfl, by decide +kernel, rfl,
    by decide +kernel⟩

end Sys2Proof.Tests
end

section
/-! The shared notation of 00_scope.md: nibble bits and groups (R6, R7). -/

namespace Sys2Proof.Machine

/-- Four bits weigh at most 15 together, so the group's width truncates nothing. -/
@[simp] theorem toNat_group (b0 b1 b2 b3 : Bool) :
    (group b0 b1 b2 b3).toNat = 8 * b0.toNat + 4 * b1.toNat + 2 * b2.toNat + b3.toNat := by
  have h0 := b0.toNat_le
  have h1 := b1.toNat_le
  have h2 := b2.toNat_le
  have h3 := b3.toNat_le
  exact (BitVec.toNat_ofNat ..).trans (Nat.mod_eq_of_lt (by omega))

/-- A nibble is the group of its own bits, so its value is that group's value (R6, R7). -/
theorem toNat_eq_sum_nibBit (n : Nibble) :
    n.toNat = 8 * (nibBit n 0).toNat + 4 * (nibBit n 1).toNat + 2 * (nibBit n 2).toNat + (nibBit n 3).toNat := by
  rw [← toNat_group, group_nibBit]

/-- Settles O11: the value of a group is computed without overflow, and every nibble is the group of its bits. -/
theorem nibbleBitWeights : Obligations.NibbleBitWeights :=
  ⟨toNat_group, toNat_eq_sum_nibBit⟩

end Sys2Proof.Machine
end

section
/-! What the lookup RAM holds, table by table (10_state.md R21, R22; 20_memory.md R40, R46). -/

namespace Sys2Proof.Machine

/-! ## Where the two tables lie -/

/-- With T = 0 the LUT address is the nibble itself (R40). -/
@[simp] theorem toNat_lutAddress_nes (k : Nibble) : (lutAddress .nes k).toNat = k.toNat :=
  (BitVec.toNat_append 0#1 k).trans (Nat.zero_or _)

/-- With T = 1 the LUT address lies sixteen entries further on (R40). -/
@[simp] theorem toNat_lutAddress_hex (k : Nibble) : (lutAddress .hex k).toNat = 16 + k.toNat :=
  (BitVec.toNat_append 1#1 k).trans (Nat.shiftLeft_add_eq_or_of_lt k.isLt 1).symm

/-! ## What they hold -/

/-- In the fixed contents ALPHA_NES stands first (R21). -/
theorem lutSym_nes_of_fixed {m : Memory} (hm : LutFixed m) (k : Nibble) :
    lutSym m .nes k = alphaNes.getD k.toNat 0#8 :=
  calc lutSym m .nes k = Memory.resetContents (lutAddress .nes k).toNat := hm _
    _ = (alphaNes ++ alphaHex).getD k.toNat 0#8 := by rw [toNat_lutAddress_nes, Memory.resetContents]
    _ = alphaNes.getD k.toNat 0#8 := List.getD_append _ _ _ _ k.isLt

/-- In the fixed contents ALPHA_HEX follows the sixteen entries of ALPHA_NES (R22). -/
theorem lutSym_hex_of_fixed {m : Memory} (hm : LutFixed m) (k : Nibble) :
    lutSym m .hex k = alphaHex.getD k.toNat 0#8 :=
  calc lutSym m .hex k = Memory.resetContents (lutAddress .hex k).toNat := hm _
    _ = (alphaNes ++ alphaHex).getD (16 + k.toNat) 0#8 := by rw [toNat_lutAddress_hex, Memory.resetContents]
    _ = alphaHex.getD (16 + k.toNat - 16) 0#8 := List.getD_append_right _ _ _ _ (Nat.le_add_right 16 _)
    _ = alphaHex.getD k.toNat 0#8 := by rw [Nat.add_sub_cancel_left]

/-- The symbols of ALPHA_NES, read as ASCII (R21). -/
theorem alphaNes_eq_ascii : alphaNes = ascii "APZLGITYEOXUKSVN" := by decide

/-- The symbols of ALPHA_HEX, read as ASCII (R22). -/
theorem alphaHex_eq_ascii : alphaHex = ascii "0123456789ABCDEF" := by decide

/-- Settles O1: the invariant fixes the lookup RAM at its reset contents, which are the two alphabets one after the
other. -/
theorem alphabetsHoldTheirSymbols : Obligations.AlphabetsHoldTheirSymbols := by
  intro s hs k
  rw [← alphaNes_eq_ascii, ← alphaHex_eq_ascii]
  exact ⟨lutSym_nes_of_fixed hs.fixed k, lutSym_hex_of_fixed hs.fixed k⟩

end Sys2Proof.Machine
end

section
/-! What the reverse lookup answers: the first hit, or nibble 0000 on a miss (20_memory.md R42). -/

namespace Sys2Proof.Machine

/-- The scan goes upward: the nibbles below `k` are scanned before `k` (R42). -/
theorem nibbles_pairwise_lt : nibbles.Pairwise (· < ·) := by decide

/-- A hit is the lowest one: no entry below it holds the character (R42). -/
theorem lutSym_ne_of_lt_lutFind {m : Memory} {t : Table} {ch : Byte} {k j : Nibble} (h : lutFind m t ch = (true, k))
    (hj : j < k) : lutSym m t j ≠ ch := by
  unfold lutFind at h
  split at h
  next i hi =>
    obtain rfl : i = k := by simpa using h
    obtain ⟨-, before, after, hsplit, hbefore⟩ := List.find?_eq_some_iff_append.1 hi
    have hup : (i :: after).Pairwise (· < ·) := (List.pairwise_append.1 (hsplit ▸ nibbles_pairwise_lt)).2.1
    have hmem : j ∈ before ++ i :: after := hsplit ▸ mem_nibbles j
    rcases List.mem_append.1 hmem with hb | ha
    · simpa using hbefore j hb
    · rcases List.mem_cons.1 ha with rfl | ha
      · exact absurd hj (BitVec.lt_irrefl j)
      · exact absurd hj (BitVec.lt_asymm (List.rel_of_pairwise_cons hup ha))
  next => simp at h

/-- The lookup hits entry `k` exactly when `k` is the lowest entry that holds the character (R42). -/
theorem lutFind_eq_hit_iff {m : Memory} {t : Table} {ch : Byte} {k : Nibble} :
    lutFind m t ch = (true, k) ↔ lutSym m t k = ch ∧ ∀ j, j < k → lutSym m t j ≠ ch := by
  refine ⟨fun h => ⟨lutSym_of_lutFind h, fun j => lutSym_ne_of_lt_lutFind h⟩, fun ⟨hk, hlow⟩ => ?_⟩
  rcases hf : lutFind m t ch with ⟨_ | _, i⟩
  case false => exact absurd hk ((lutFind_miss (by rw [hf])).2 k)
  case true =>
    have hki : k ≤ i := BitVec.not_lt.1 fun hik => hlow i hik (lutSym_of_lutFind hf)
    have hik : i ≤ k := BitVec.not_lt.1 fun hki => lutSym_ne_of_lt_lutFind hf hki hk
    rw [BitVec.le_antisymm hik hki]

/-- The lookup misses, with nibble 0000, exactly when no entry holds the character (R42). -/
theorem lutFind_eq_miss_iff {m : Memory} {t : Table} {ch : Byte} :
    lutFind m t ch = (false, 0#4) ↔ ∀ k, lutSym m t k ≠ ch := by
  refine ⟨fun h => (lutFind_miss (by rw [h])).2, fun hno => ?_⟩
  cases hf : (lutFind m t ch).1 with
  | false => exact Prod.ext hf (lutFind_miss hf).1
  | true => exact absurd (lutSym_of_lutFind (Prod.ext hf rfl)) (hno _)

/-- Settles O6: a hit is the lowest entry that holds the character because the scan goes upward, and in a bijective table
it is the only one. -/
theorem lutFindIsReverseLookup : Obligations.LutFindIsReverseLookup :=
  fun _ _ _ => ⟨fun _ => lutFind_eq_hit_iff, lutFind_eq_miss_iff.symm, lutFind_lutSym⟩

end Sys2Proof.Machine
end

section
/-! The shared logic over the fixed tables: a NES character to its nibble (40_common_logic.md R94), a group to its hex
digit (R97), and the dashed display form (R101). -/

namespace Sys2Proof.Machine

/-! ## Character to nibble -/

/-- Sixteen different symbols stand for sixteen different nibbles (R23). -/
theorem eq_of_getD_toNat_eq {symbols : List Byte} (hdistinct : symbols.Nodup) (hlen : symbols.length = 16)
    {k j : Nibble} (h : symbols.getD k.toNat 0#8 = symbols.getD j.toNat 0#8) : k = j := by
  have hk : k.toNat < symbols.length := hlen ▸ k.isLt
  have hj : j.toNat < symbols.length := hlen ▸ j.isLt
  rw [List.getD_eq_getElem _ _ hk, List.getD_eq_getElem _ _ hj] at h
  exact BitVec.eq_of_toNat_eq (hdistinct.getElem_inj_iff.1 h)

/-- The fixed contents make the NES table a bijection, because ALPHA_NES repeats no symbol (R21, R23). -/
theorem tableBijective_nes_of_fixed {m : Memory} (hm : LutFixed m) : TableBijective m .nes := by
  intro k j h
  rw [lutSym_nes_of_fixed hm, lutSym_nes_of_fixed hm] at h
  exact eq_of_getD_toNat_eq (by decide) rfl h

/-- In the fixed contents every entry of the NES table is a letter of ALPHA_NES (R21). -/
theorem lutSym_nes_mem_of_fixed {m : Memory} (hm : LutFixed m) (k : Nibble) : lutSym m .nes k ∈ alphaNes := by
  have hk : k.toNat < alphaNes.length := k.isLt
  rw [lutSym_nes_of_fixed hm, List.getD_eq_getElem _ _ hk]
  exact List.getElem_mem hk

/-- A character whose upper case is letter `k` of ALPHA_NES maps to `k` (R94). -/
theorem nibNes_of_upcase_eq {m : Memory} (hm : LutFixed m) {ch : Byte} {k : Nibble}
    (h : upcase ch = alphaNes.getD k.toNat 0#8) : nibNes m ch = (true, k) := by
  rw [nibNes, h, ← lutSym_nes_of_fixed hm]
  exact lutFind_lutSym (tableBijective_nes_of_fixed hm) k

/-- A character whose upper case is no letter of ALPHA_NES is unmapped, with nibble 0000 (R94). -/
theorem nibNes_of_upcase_notMem {m : Memory} (hm : LutFixed m) {ch : Byte} (h : upcase ch ∉ alphaNes) :
    nibNes m ch = (false, 0#4) :=
  lutFind_eq_miss_iff.2 fun k hk => h (hk ▸ lutSym_nes_mem_of_fixed hm k)

/-- Settles O9: the sixteen letters are distinct, so a hit names its own nibble, and they are all the table holds. -/
theorem nibNesMapsSymbols : Obligations.NibNesMapsSymbols := by
  intro s hs ch
  rw [← alphaNes_eq_ascii]
  exact ⟨fun _ => nibNes_of_upcase_eq hs.fixed, nibNes_of_upcase_notMem hs.fixed⟩

/-! ## Group to digit -/

/-- Settles O10: `hexdigit` reads the hex table, which holds the upper-case digits in the order of their values. -/
theorem hexdigitsAreUpperCase : Obligations.HexdigitsAreUpperCase :=
  fun s hs g => ⟨rfl, (alphabetsHoldTheirSymbols s hs g).2⟩

/-! ## The dashed form -/

/-- Settles O13: a dash goes in after three characters, and after six when the length is 9; where it goes does not
depend on what the characters are. -/
theorem dashedForms : Obligations.DashedForms :=
  fun _ _ _ _ _ _ _ _ _ => ⟨rfl, rfl⟩

end Sys2Proof.Machine
end

section
/-! NES decode: the selection by length (30_encoding.md R63), the one test a code of a good length can fail
(41_nes_decode.md R111), and what the gathers of R114 to R116 deliver. -/

namespace Sys2Proof.Machine

/-! ## Selection -/

/-- CMD 000 selects NES decode, and the length of the code alone selects its variant (R63). -/
theorem decode_of_cmd_nes {r : Operands} (hcmd : r.cmd = 0b000#3) :
    decode r =
      if r.code.length = 6 then .ok (.nesdec6 r.code)
      else if r.code.length = 8 then .ok (.nesdec8 r.code)
      else .error .nesNoVariant := by
  have hplat : platformOf r.cmd = .nes := by rw [hcmd]; rfl
  have hdir : directionOf r.cmd = .decode := by rw [hcmd]; rfl
  rw [decode, hplat, hdir]

/-! ## The tests -/

/-- A code is clean exactly when the character test of NES decode finds nothing (R111). -/
theorem nesClean_iff (code : Str) : NesClean code ↔ (code.any fun ch => isWs ch || isDigit ch) = false := by
  simp only [NesClean, List.any_eq_false, Bool.or_eq_true, not_or, Bool.not_eq_true]

/-- With a good length the white space and digit test alone decides how NES decode ends, in either order of the tests
(R110, R111; 60_exceptions.md R199). -/
theorem conclude_nesDecodeCheck {code : Str} (hlen : code.length = 6 ∨ code.length = 8) (r : Result) (s : State) :
    conclude (nesDecodeCheck code s) r s = if NesClean code then s.deliver r else raiseError .invalidSymbol s := by
  have hgood : (!(code.length == 6 || code.length == 8)) = false := by
    rcases hlen with h | h <;> simp [h]
  simp only [nesDecodeCheck, hgood, firstFailure_goodLength, nesClean_iff]
  cases code.any fun ch => isWs ch || isDigit ch <;> rfl

/-- How NESDEC6 ends on a code of its length (R111, R115). -/
theorem exec_nesdec6 {code : Str} (hlen : code.length = 6) (s : State) :
    exec (.nesdec6 code) s =
      .next (if NesClean code then s.deliver (nesDecodeResult6 code s) else raiseError .invalidSymbol s) :=
  congrArg Host.Outcome.next (conclude_nesDecodeCheck (.inl hlen) _ s)

/-- How NESDEC8 ends on a code of its length (R111, R116). -/
theorem exec_nesdec8 {code : Str} (hlen : code.length = 8) (s : State) :
    exec (.nesdec8 code) s =
      .next (if NesClean code then s.deliver (nesDecodeResult8 code s) else raiseError .invalidSymbol s) :=
  congrArg Host.Outcome.next (conclude_nesDecodeCheck (.inr hlen) _ s)

/-! ## The records -/

/-- The input nibbles of the gather are `sym0, sym1, ..` in order (R112). -/
theorem nesNibbles_eq_map_range (m : Memory) (code : Str) :
    nesNibbles m code = (List.range code.length).map (nesSym m code) := by
  refine List.ext_getElem (by simp [nesNibbles]) fun i hi _ => ?_
  have hi : i < code.length := by simpa [nesNibbles] using hi
  simp [nesNibbles, nesSym, hi]

/-- Of a successful record without encode codes the host may read every field, less the condition of an unconditional
patch (10_state.md R27). -/
theorem specifiedPart_of_decoded {r : Result} (hstatus : r.status = .success) (hcode : r.primaryCode = none) :
    specifiedPart r = { r with condition := if r.condValid = true then r.condition else 0#8 } := by
  simp [specifiedPart, hstatus, hcode]

/-! ## The two operations -/

/-- Settles O25: the code's length selects NESDEC6 and leaves the character test as its one test; once the input nibbles
are the six symbols in order, the rows of the wire table are the bits the statement lists. -/
theorem nesdec6Decodes : Obligations.Nesdec6Decodes := by
  refine ⟨fun r hcmd hlen => by rw [decode_of_cmd_nes hcmd, if_pos hlen], fun s code hlen => ⟨fun hbad => ?_,
    fun hclean => ?_⟩⟩
  · exact ⟨_, by rw [exec_nesdec6 hlen, if_neg hbad], errorResult_status _ _⟩
  · refine ⟨_, by rw [exec_nesdec6 hlen, if_pos hclean], ?_⟩
    rw [deliver_result, specifiedPart_of_decoded rfl rfl, nesDecodeResult6, nesNibbles_eq_map_range, hlen]
    rfl

/-- Settles O26: as for NESDEC6, with eight symbols and the condition's two groups before the value's. -/
theorem nesdec8Decodes : Obligations.Nesdec8Decodes := by
  refine ⟨fun r hcmd hlen => by simp [decode_of_cmd_nes hcmd, hlen], fun s code hlen => ⟨fun hbad => ?_,
    fun hclean => ?_⟩⟩
  · exact ⟨_, by rw [exec_nesdec8 hlen, if_neg hbad], errorResult_status _ _⟩
  · rintro c v rfl rfl
    refine ⟨_, by rw [exec_nesdec8 hlen, if_pos hclean], ?_⟩
    rw [deliver_result, specifiedPart_of_decoded rfl rfl, nesDecodeResult8, nesNibbles_eq_map_range, hlen]
    rfl

end Sys2Proof.Machine
end

section
/-! NES encode: the one test of its operands (42_nes_encode.md R130), noOp (R137), and the pair of codes, which the
gathers of NES decode turn back into one patch (R135, R138, R139). -/

namespace Sys2Proof.Machine

/-! ## The test of the operands -/

/-- A good operand has its number of characters, and each is a hex digit (R130). -/
theorem hexOperand_iff {m : Memory} {n : Nat} {text : Str} :
    hexOperand m n text = true ↔ text.length = n ∧ AllHex m text := by
  simp [hexOperand, AllHex]

/-- How NESENC6 ends: with its record on good operands, else with InvalidDigit (R130, R133). -/
theorem exec_nesenc6 (addr value : Str) (s : State) :
    exec (.nesenc6 addr value) s =
      .next (if hexOperand s.lut 4 addr && hexOperand s.lut 2 value then s.deliver (nesEncodeResult6 addr value s)
        else raiseError .invalidDigit s) := by
  simp only [exec, execNesenc6, nesEncodeCheck6]
  split <;> rfl

/-- How NESENC8 ends: with its record on good operands, else with InvalidDigit (R130, R134). -/
theorem exec_nesenc8 (addr value cond : Str) (s : State) :
    exec (.nesenc8 addr value cond) s =
      .next (if hexOperand s.lut 4 addr && hexOperand s.lut 2 value && hexOperand s.lut 2 cond then
          s.deliver (nesEncodeResult8 addr value cond s)
        else raiseError .invalidDigit s) := by
  simp only [exec, execNesenc8, nesEncodeCheck8]
  split <;> rfl

/-- An operation that delivers its record or raises an error has, when it succeeds, delivered the record. -/
theorem eq_deliver_of_success {i : Instr} {s t : State} {good : Prop} [Decidable good] {r : Result} {e : Status}
    (hexec : exec i s = .next (if good then s.deliver r else raiseError e s)) (he : e ≠ .success)
    (h : exec i s = .next t) (hstatus : t.result.status = .success) : t = s.deliver r := by
  obtain rfl : (if good then s.deliver r else raiseError e s) = t := by simpa [hexec] using h
  split at hstatus
  next hgood => rw [if_pos hgood]
  next => exact absurd hstatus (by simpa using he)

/-! ## The digits -/

/-- The nibbles of an operand's digits in order, digit 0 first (R131). -/
theorem digitNibbles_eq_map_range (m : Memory) (text : Str) :
    digitNibbles m text = (List.range text.length).map (digitNib m text) := by
  refine List.ext_getElem (by simp [digitNibbles]) fun i hi _ => ?_
  have hi : i < text.length := by simpa [digitNibbles] using hi
  simp [digitNibbles, digitNib, hi]

/-- On operands of their lengths, noOp compares the byte of the value's digits with the byte of the condition's
(R137; 40_common_logic.md R99). -/
theorem nesEncodeResult8_noOp_iff {addr value cond : Str} (haddr : addr.length = 4) (hvalue : value.length = 2)
    (hcond : cond.length = 2) (s : State) :
    (nesEncodeResult8 addr value cond s).noOp = true ↔
      digitNib s.lut value 0 ++ digitNib s.lut value 1 = digitNib s.lut cond 0 ++ digitNib s.lut cond 1 := by
  rw [nesEncodeResult8, digitNibbles_eq_map_range, digitNibbles_eq_map_range, digitNibbles_eq_map_range, haddr, hvalue,
    hcond]
  exact beq_iff_eq

/-- Settles O34: good operands pass the one test, the record of NESENC8 compares the two bytes, and both records hold
both codes whatever the comparison gives. -/
theorem noOpOnEncode : Obligations.NoOpOnEncode := by
  intro s addr value cond haddr hvalue hhex
  obtain ⟨hhexAddr, hhexValue⟩ := List.forall_mem_append.1 hhex
  have hgoodAddr := hexOperand_iff.2 ⟨haddr, hhexAddr⟩
  have hgoodValue := hexOperand_iff.2 ⟨hvalue, hhexValue⟩
  refine ⟨⟨_, by rw [exec_nesenc6, hgoodAddr, hgoodValue], rfl, rfl, rfl, rfl⟩, fun hcond hhexCond => ?_⟩
  have hgoodCond := hexOperand_iff.2 ⟨hcond, hhexCond⟩
  exact ⟨_, by rw [exec_nesenc8, hgoodAddr, hgoodValue, hgoodCond], rfl,
    nesEncodeResult8_noOp_iff haddr hvalue hcond s, rfl, rfl⟩

/-! ## The two codes differ at index 2 only -/

@[simp] theorem length_nesCode (m : Memory) (rows : List WireRow) (digits : List Nibble) (dc : Bool) :
    (nesCode m rows digits dc).length = rows.length := by
  simp [nesCode, wired_length]

/-- Of `sym0..sym4` the don't-care bit enters `sym2` alone; where it does not enter the remaining rows either, the
sibling is the primary with another symbol 2 (R132, R135). -/
theorem nesCode_true_eq_set (m : Memory) {last : List WireRow} {digits : List Nibble}
    (hlast : wired last digits true = wired last digits false) :
    nesCode m (nesSymbolRows ++ last) digits true =
      (nesCode m (nesSymbolRows ++ last) digits false).set 2
        (lutSym m .nes (rowValue digits true ⟨.dc, .bit a2 1, .bit a2 2, .bit a2 3⟩)) := by
  rw [wired, wired] at hlast
  rw [nesCode, nesCode, wired, wired, List.map_append, List.map_append, hlast]
  rfl

/-- The two codes of an encode agree everywhere but at index 2: there the nibbles differ in bit 0, and the table is
a bijection (R139; 10_state.md R23). -/
theorem nesCode_getElem?_eq_iff {m : Memory} (hm : LutInvariant m) {last : List WireRow} {digits : List Nibble}
    (hlast : wired last digits true = wired last digits false) (i : Nat) :
    (nesCode m (nesSymbolRows ++ last) digits false)[i]? = (nesCode m (nesSymbolRows ++ last) digits true)[i]? ↔
      i ≠ 2 := by
  refine ⟨?_, fun hi => by rw [nesCode_true_eq_set m hlast, List.getElem?_set_ne hi.symm]⟩
  rintro heq rfl
  have hnib := hm.nesBijective _ _ (Option.some.inj heq)
  simpa [rowValue, nibBit_group, wireValue] using congrArg (nibBit · 0) hnib

/-! ## Decoding a code -/

/-- A symbol of the NES table maps back to its own nibble, since folding leaves it as it is (R94; 10_state.md R23). -/
theorem nibNes_lutSym {m : Memory} (hm : LutInvariant m) (k : Nibble) : nibNes m (lutSym m .nes k) = (true, k) := by
  rw [nibNes, upcase_of_not_lower (hm.upperCase .nes k), lutFind_lutSym hm.nesBijective]

/-- NES decode reads the nibbles of a code back (R135; 41_nes_decode.md R112). -/
theorem nesNibbles_nesCode {m : Memory} (hm : LutInvariant m) (rows : List WireRow) (digits : List Nibble) (dc : Bool) :
    nesNibbles m (nesCode m rows digits dc) = wired rows digits dc := by
  simp [nesNibbles, nesCode, Function.comp_def, nibNes_lutSym hm]

/-- No symbol of a code is unmapped (41_nes_decode.md R112). -/
theorem unmappedSymbol_nesCode {m : Memory} (hm : LutInvariant m) (rows : List WireRow) (digits : List Nibble)
    (dc : Bool) : unmappedSymbol m (nesCode m rows digits dc) = false := by
  simp [unmappedSymbol, nesCode, nibNes_lutSym hm]

/-- No symbol of a code is white space or a digit (41_nes_decode.md R111; 10_state.md R23). -/
theorem nesClean_nesCode {m : Memory} (hm : LutInvariant m) (rows : List WireRow) (digits : List Nibble) (dc : Bool) :
    NesClean (nesCode m rows digits dc) := by
  intro ch hch
  obtain ⟨k, -, rfl⟩ := List.mem_map.1 hch
  exact ⟨hm.noWhiteSpace .nes k, hm.nesNoDigit k⟩

/-- A nibble with bit 0 forced to 1, as the constant wire of the decoded address forces it (41_nes_decode.md R114). -/
theorem group_true_nibBit (n : Nibble) : group true (nibBit n 1) (nibBit n 2) (nibBit n 3) = 0b1000#4 ||| n := by
  revert n; decide +kernel

/-- Bit 0 of the first digit is bit 15 of the address (41_nes_decode.md R114; 00_scope.md R9). -/
theorem or_append_eq_or_addressOf (digits : List Nibble) :
    (0b1000#4 ||| outGroup digits 0) ++ outGroup digits 1 ++ outGroup digits 2 ++ outGroup digits 3 =
      0x8000#16 ||| addressOf digits :=
  calc
    (0b1000#4 ||| outGroup digits 0) ++ outGroup digits 1 ++ outGroup digits 2 ++ outGroup digits 3 =
        (0b1000#4 ++ 0#4 ++ 0#4 ++ 0#4) |||
          (outGroup digits 0 ++ outGroup digits 1 ++ outGroup digits 2 ++ outGroup digits 3) := by
      simp only [BitVec.or_append, BitVec.zero_or]
    _ = 0x8000#16 ||| addressOf digits := rfl

/-- The groups NES decode gathers from either code of `a0 a1 a2 a3 v0 v1` are the digits again, bit 0 of `a0` forced to
1, with no trace of the don't-care bit (R136, R138). -/
theorem wired_nesDecode6_nesEncode6 (digits : List Nibble) (dc : Bool) :
    wired (nesAddressRows ++ nesValueRows6) (wired (nesSymbolRows ++ nesLastRows6) digits dc) false =
      [0b1000#4 ||| outGroup digits a0, outGroup digits a1, outGroup digits a2, outGroup digits a3,
        outGroup digits v0, outGroup digits v1] := by
  simp [wired, nesAddressRows, nesValueRows6, nesSymbolRows, nesLastRows6, rowValue, wireValue, nibBit_group,
    group_nibBit, group_true_nibBit, outGroup]

/-- As for six letters, with the condition `c0 c1` before the value `v0 v1` (R136, R138). -/
theorem wired_nesDecode8_nesEncode8 (digits : List Nibble) (dc : Bool) :
    wired (nesAddressRows ++ nesCondValueRows8) (wired (nesSymbolRows ++ nesLastRows8) digits dc) false =
      [0b1000#4 ||| outGroup digits a0, outGroup digits a1, outGroup digits a2, outGroup digits a3,
        outGroup digits c0, outGroup digits c1, outGroup digits v0, outGroup digits v1] := by
  simp [wired, nesAddressRows, nesCondValueRows8, nesSymbolRows, nesLastRows8, rowValue, wireValue, nibBit_group,
    group_nibBit, group_true_nibBit, outGroup]

/-- NESDEC6 of either code delivers the patch the digits spell, bit 15 of the address forced to 1 (R136, R138). -/
theorem exec_nesdec6_nesCode {s : State} (hm : LutInvariant s.lut) (digits : List Nibble) (dc : Bool) :
    exec (.nesdec6 (nesCode s.lut (nesSymbolRows ++ nesLastRows6) digits dc)) s =
      .next (s.deliver
        { successResult s with addr := 0x8000#16 ||| addressOf digits, value := byteAt digits v0 }) := by
  have hclean := nesClean_nesCode hm (nesSymbolRows ++ nesLastRows6) digits dc
  rw [exec_nesdec6 (length_nesCode ..), if_pos hclean, nesDecodeResult6, replacementField, unmappedSymbol_nesCode hm,
    nesNibbles_nesCode hm, wired_nesDecode6_nesEncode6, ← or_append_eq_or_addressOf]
  rfl

/-- NESDEC8 of either code delivers the conditional patch the digits spell, bit 15 of the address forced to 1 (R136,
R138). -/
theorem exec_nesdec8_nesCode {s : State} (hm : LutInvariant s.lut) (digits : List Nibble) (dc : Bool) :
    exec (.nesdec8 (nesCode s.lut (nesSymbolRows ++ nesLastRows8) digits dc)) s =
      .next (s.deliver
        { successResult s with
          addr := 0x8000#16 ||| addressOf digits
          condition := byteAt digits c0
          value := byteAt digits v0
          condValid := true
          noOp := noop true (byteAt digits v0) (byteAt digits c0) }) := by
  have hclean := nesClean_nesCode hm (nesSymbolRows ++ nesLastRows8) digits dc
  rw [exec_nesdec8 (length_nesCode ..), if_pos hclean, nesDecodeResult8, replacementField, unmappedSymbol_nesCode hm,
    nesNibbles_nesCode hm, wired_nesDecode8_nesEncode8, ← or_append_eq_or_addressOf]
  rfl

/-- Settles O36: a successful encode has delivered the two evaluations of one scatter, whose symbol 2 differs in the
don't-care bit, and both decode to the patch its digits spell. -/
theorem siblingInvariant : Obligations.SiblingInvariant := by
  intro s t addr value cond hm
  constructor
  · intro h hstatus
    obtain rfl := eq_deliver_of_success (exec_nesenc6 addr value s) nofun h hstatus
    have hdecode := exec_nesdec6_nesCode (s := s.deliver (nesEncodeResult6 addr value s)) hm
    exact ⟨_, _, _, _, rfl, rfl, by simp, nesCode_getElem?_eq_iff hm rfl, hdecode _ false, hdecode _ true, rfl, rfl⟩
  · intro h hstatus
    obtain rfl := eq_deliver_of_success (exec_nesenc8 addr value cond s) nofun h hstatus
    have hdecode := exec_nesdec8_nesCode (s := s.deliver (nesEncodeResult8 addr value cond s)) hm
    exact ⟨_, _, _, _, rfl, rfl, by simp, nesCode_getElem?_eq_iff hm rfl, hdecode _ false, hdecode _ true, rfl, rfl⟩

end Sys2Proof.Machine
end

section
/-! Hex decode: the one test a hex code of a good length can still fail (43_hex_decode.md R154), its symbols (R155),
every field a 6-digit decode delivers (R157, R158), and the opt-in at either length (R154). -/

namespace Sys2Proof.Machine

/-! ## The symbols -/

/-- Reading a hex character folds it first, so reading its upper case reads the same nibble (40_common_logic.md R95). -/
@[simp] theorem nibHex_upcase (m : Memory) (ch : Byte) : nibHex m (upcase ch) = nibHex m ch := by
  rw [nibHex, nibHex, upcase_upcase]

/-- The nibbles of the stripped code in order, symbol 0 first (R152, R155). -/
theorem hexNibbles_eq_map_range (m : Memory) (code : Str) :
    hexNibbles m code = (List.range (strip code).length).map (hexSym m code) := by
  refine List.ext_getElem (by simp [hexNibbles, hexSymbols]) fun i hi _ => ?_
  have hi : i < (strip code).length := by simpa [hexNibbles, hexSymbols] using hi
  simp [hexNibbles, hexSymbols, hexSym, hi]

/-- A symbol inside the stripped code is the nibble of its character (R155). -/
theorem hexNibble_eq_hexSym (m : Memory) {code : Str} {i : Nat} (hi : i < (strip code).length) :
    hexNibble m code i = hexSym m code i := by
  simp [hexNibble, hexNibbles_eq_map_range, hi]

/-! ## The tests -/

/-- A hex code of a good length passes the tests of its form, in either order (R151, R152; 60_exceptions.md R199). -/
theorem hexFormCheck_eq_success {code : Str} {s : State} (hlen : (strip code).length = 6 ∨ (strip code).length = 9)
    (hhex : AllHex s.lut (strip code)) : hexFormCheck code s = .success := by
  have hgood : (!((strip code).length == 6 || (strip code).length == 9)) = false := by
    rcases hlen with h | h <;> simp [h]
  have hclean : ((strip code).any fun ch => !isHex s.lut ch) = false :=
    List.any_eq_false.2 fun ch hch => by simp [hhex ch hch]
  rw [hexFormCheck, hgood, hclean, firstFailure_goodLength]
  rfl

/-- A hex code of a good length is declined when it targets RAM without the opt-in, and decoded otherwise (R153, R154). -/
theorem conclude_hexDecodeCheck {code : Str} {s : State} (hlen : (strip code).length = 6 ∨ (strip code).length = 9)
    (hhex : AllHex s.lut (strip code)) (tRam : Nibble) (optin : Bool) (r : Result) :
    conclude (hexDecodeCheck tRam code optin s) r s =
      if hexSym s.lut code 5 < tRam ∧ optin = false then raiseError .ramTargetDeclined s else s.deliver r := by
  have hsym : hexNibble s.lut code 5 = hexSym s.lut code 5 := hexNibble_eq_hexSym _ (by omega)
  have hiff : (ramTarget tRam (hexSym s.lut code 5) && !optin) = true ↔ hexSym s.lut code 5 < tRam ∧ optin = false := by
    simp [ramTarget]
  simp only [hexDecodeCheck, hexFormCheck_eq_success hlen hhex, hsym, hiff]
  split <;> rfl

/-! ## Six digits: every field -/

/-- Inverting the four bits of a nibble complements it (R157). -/
theorem group_not_nibBit (n : Nibble) :
    group (!nibBit n 0) (!nibBit n 1) (!nibBit n 2) (!nibBit n 3) = n ^^^ 0b1111#4 := by
  revert n; decide +kernel

/-- The groups gathered from the symbols of a 6-digit code (R157, R158). -/
theorem wired_hexDecode6 (n : Nat → Nibble) :
    wired (hexAddressRows ++ hexValueRows) ((List.range 6).map n) false =
      [n 5 ^^^ 0b1111#4, n 2, n 3, n 4, n 0, n 1] := by
  simp [wired, hexAddressRows, hexValueRows, rowValue, wireValue, group_nibBit, group_not_nibBit]

/-- What the host reads of a successful 6-digit decode (R157, R158, R160). -/
theorem specifiedPart_hexDecodeResult6 {code : Str} (hlen : (strip code).length = 6) (tRam : Nibble) (s : State) :
    specifiedPart (hexDecodeResult6 tRam code s) =
      { blankResult with
        addr := (hexSym s.lut code 5 ^^^ 0b1111#4) ++ hexSym s.lut code 2 ++ hexSym s.lut code 3 ++ hexSym s.lut code 4
        value := hexSym s.lut code 0 ++ hexSym s.lut code 1
        ramTargeted := decide (hexSym s.lut code 5 < tRam)
        displayCode := some (dashed ((strip code).map upcase)) } := by
  rw [specifiedPart_of_decoded rfl rfl, hexDecodeResult6, hexNibble_eq_hexSym _ (by omega), hexNibbles_eq_map_range,
    hlen, wired_hexDecode6]
  rfl

/-- How GBDEC6 and GEARDEC6 end on a hex code of their length (R154, R161, R163). -/
theorem exec_hexDecode6 {op : (Str → Bool → Instr) × Nibble} (hop : op ∈ [(Instr.gbdec6, 8#4), (Instr.geardec6, 4#4)])
    {code : Str} {s : State} (hlen : (strip code).length = 6) (hhex : AllHex s.lut (strip code)) (optin : Bool) :
    exec (op.1 code optin) s =
      .next (if hexSym s.lut code 5 < op.2 ∧ optin = false then raiseError .ramTargetDeclined s
        else s.deliver (hexDecodeResult6 op.2 code s)) := by
  rw [← conclude_hexDecodeCheck (.inl hlen) hhex]
  obtain rfl | rfl : op = (Instr.gbdec6, 8#4) ∨ op = (Instr.geardec6, 4#4) := by simpa using hop
  · rfl
  · rfl

/-- Settles O40 (`hexDecode6` itself is the model's function): both operations end in the one conclusion of hex decode,
at their own thresholds, and a success delivers the record gathered from the six symbols. -/
theorem hexDecode6EveryField : Obligations.HexDecode6 := by
  rintro op hop s code optin hlen hhex n rfl
  refine ⟨_, exec_hexDecode6 hop hlen hhex optin, ?_⟩
  by_cases hdeclined : hexSym s.lut code 5 < op.2 ∧ optin = false
  · rw [if_pos hdeclined]
    exact .inl ⟨hdeclined.1, hdeclined.2, rfl, rfl⟩
  · rw [if_neg hdeclined]
    exact .inr ⟨hdeclined, specifiedPart_hexDecodeResult6 hlen op.2 s⟩

/-! ## Either length: the opt-in -/

/-- How GBDEC9 and GEARDEC9 end on a hex code of their length (R154, R162, R164). -/
theorem exec_hexDecode9 {op : (Str → Bool → Instr) × Nibble} (hop : op ∈ [(Instr.gbdec9, 8#4), (Instr.geardec9, 4#4)])
    {code : Str} {s : State} (hlen : (strip code).length = 9) (hhex : AllHex s.lut (strip code)) (optin : Bool) :
    exec (op.1 code optin) s =
      .next (if hexSym s.lut code 5 < op.2 ∧ optin = false then raiseError .ramTargetDeclined s
        else s.deliver (hexDecodeResult9 op.2 code s)) := by
  rw [← conclude_hexDecodeCheck (.inr hlen) hhex]
  obtain rfl | rfl : op = (Instr.gbdec9, 8#4) ∨ op = (Instr.geardec9, 4#4) := by simpa using hop
  · rfl
  · rfl

/-- A well-formed hex decode of either length, on hex digits: without the opt-in a RAM target is declined, and every
other run delivers one and the same successful record, flagged as the code is (R153, R154). -/
theorem exec_hexDecode {op : (Str → Bool → Instr) × Nibble}
    (hop : op ∈ [(Instr.gbdec6, 8#4), (Instr.gbdec9, 8#4), (Instr.geardec6, 4#4), (Instr.geardec9, 4#4)])
    {s : State} {p : Params} {code : Str} (hwf : (op.1 code true).wellFormed p = true)
    (hhex : AllHex s.lut (strip code)) :
    ∃ r : Result, r.status = .success ∧ r.ramTargeted = decide (hexSym s.lut code 5 < op.2) ∧
      ∀ optin, exec (op.1 code optin) s =
        .next (if hexSym s.lut code 5 < op.2 ∧ optin = false then raiseError .ramTargetDeclined s
          else s.deliver r) := by
  have hcases : (op ∈ [(Instr.gbdec6, 8#4), (Instr.geardec6, 4#4)] ∧ (strip code).length = 6) ∨
      (op ∈ [(Instr.gbdec9, 8#4), (Instr.geardec9, 4#4)] ∧ (strip code).length = 9) := by
    simp only [List.mem_cons, List.not_mem_nil, or_false] at hop ⊢
    rcases hop with rfl | rfl | rfl | rfl <;>
      simp only [Instr.wellFormed, Bool.and_eq_true, beq_iff_eq] at hwf <;>
      simp [hwf.2]
  rcases hcases with ⟨hop6, hlen⟩ | ⟨hop9, hlen⟩
  · exact ⟨hexDecodeResult6 op.2 code s, rfl, by rw [← hexNibble_eq_hexSym _ (by omega)]; rfl,
      exec_hexDecode6 hop6 hlen hhex⟩
  · exact ⟨hexDecodeResult9 op.2 code s, rfl, by rw [← hexNibble_eq_hexSym _ (by omega)]; rfl,
      exec_hexDecode9 hop9 hlen hhex⟩

/-- Settles O43: the opt-in enters only where a RAM target is declined, so below the threshold it tells the two runs
apart and elsewhere both deliver the same record. -/
theorem ramTargetOptIn : Obligations.RamTargetOptIn := by
  intro s p code op hop hwf hhex
  obtain ⟨r, hstatus, hram, hexec⟩ := exec_hexDecode hop hwf hhex
  constructor
  · intro hlt
    rw [decide_eq_true hlt] at hram
    exact ⟨_, _, by rw [hexec, if_pos ⟨hlt, rfl⟩], rfl, rfl, by rw [hexec, if_neg nofun], hstatus, hram⟩
  · intro hge
    have hsame : ∀ optin, exec (op.1 code optin) s = .next (s.deliver r) := fun optin => by
      rw [hexec, if_neg fun h => hge h.1]
    rw [decide_eq_false hge] at hram
    exact ⟨(hsame false).trans (hsame true).symm, _, hsame false, hstatus, hram⟩

end Sys2Proof.Machine
end

section
/-! Which errors the tests of an operation can find (60_exceptions.md R191 to R196), and that none of the supported
operations finds NotSupported (R195). -/

namespace Sys2Proof.Machine

/-! ## What the tests find -/

/-- An operation with a successful record at hand ends with the status its tests found (60_exceptions.md R197). -/
theorem conclude_status {r : Result} (hr : r.status = .success) (check : Status) (s : State) :
    (conclude check r s).result.status = check := by
  rcases conclude_cases check r s with ⟨hcheck, h⟩ | ⟨-, h⟩
  · rw [h, deliver_result, hr, hcheck]
  · rw [h, deliver_result, errorResult_status]

/-- The two tests of a form find nothing, a bad length, or the character error (R199). -/
theorem firstFailure_mem (lengthFirst lengthBad charBad : Bool) (e : Status) :
    firstFailure lengthFirst lengthBad charBad e ∈ [Status.success, .invalidLength, e] := by
  rcases firstFailure_cases lengthFirst lengthBad charBad e with ⟨h, -⟩ | ⟨h, -⟩ | ⟨h, -⟩ <;> simp [h]

/-- What the tests of NES decode can find (R191, R192). -/
theorem nesDecodeCheck_mem (code : Str) (s : State) :
    nesDecodeCheck code s ∈ [Status.success, .invalidLength, .invalidSymbol] :=
  firstFailure_mem ..

/-- What the test of NESENC6 can find (R194). -/
theorem nesEncodeCheck6_mem (addr value : Str) (s : State) :
    nesEncodeCheck6 addr value s ∈ [Status.success, .invalidDigit] := by
  unfold nesEncodeCheck6
  split <;> simp

/-- What the test of NESENC8 can find (R194). -/
theorem nesEncodeCheck8_mem (addr value cond : Str) (s : State) :
    nesEncodeCheck8 addr value cond s ∈ [Status.success, .invalidDigit] := by
  unfold nesEncodeCheck8
  split <;> simp

/-- What the tests of a hex code's form can find (R191, R193). -/
theorem hexFormCheck_mem (code : Str) (s : State) :
    hexFormCheck code s ∈ [Status.success, .invalidLength, .notHexadecimal] :=
  firstFailure_mem ..

/-- What the tests of hex decode can find: an error of the form, or else a declined RAM target (R191, R193, R196). -/
theorem hexDecodeCheck_mem (tRam : Nibble) (code : Str) (optin : Bool) (s : State) :
    hexDecodeCheck tRam code optin s ∈ [Status.success, .invalidLength, .notHexadecimal, .ramTargetDeclined] := by
  have hform := hexFormCheck_mem code s
  unfold hexDecodeCheck
  split
  next => split <;> simp
  next => exact List.mem_append_left [Status.ramTargetDeclined] hform

/-! ## NotSupported -/

/-- A supported operation concludes, with a successful record at hand, what its tests found, and that is never
NotSupported (R195). -/
theorem exec_eq_conclude_of_supported {i : Instr} (hi : i ∉ [Instr.gbenc, .gearenc, .rsvddec, .rsvdenc]) (s : State) :
    ∃ check r, exec i s = .next (conclude check r s) ∧ r.status = .success ∧ check ≠ .notSupported := by
  cases i with
  | nesdec6 code | nesdec8 code =>
    exact ⟨_, _, rfl, rfl, ne_of_mem_of_not_mem (nesDecodeCheck_mem code s) (by decide)⟩
  | nesenc6 addr value =>
    exact ⟨_, _, rfl, rfl, ne_of_mem_of_not_mem (nesEncodeCheck6_mem addr value s) (by decide)⟩
  | nesenc8 addr value cond =>
    exact ⟨_, _, rfl, rfl, ne_of_mem_of_not_mem (nesEncodeCheck8_mem addr value cond s) (by decide)⟩
  | gbdec6 code optin | gbdec9 code optin | geardec6 code optin | geardec9 code optin =>
    exact ⟨_, _, rfl, rfl, ne_of_mem_of_not_mem (hexDecodeCheck_mem _ code optin s) (by decide)⟩
  | gbenc | gearenc | rsvddec | rsvdenc => exact absurd (by decide) hi

/-- The operations defined to fail raise NotSupported at once (44_unsupported.md R180 to R183). -/
theorem exec_of_unsupported {i : Instr} (hi : i ∈ [Instr.gbenc, .gearenc, .rsvddec, .rsvdenc]) (s : State) :
    exec i s = .next (raiseError .notSupported s) := by
  simp only [List.mem_cons, List.not_mem_nil, or_false] at hi
  rcases hi with rfl | rfl | rfl | rfl <;> rfl

/-- Settles O51: the four raise NotSupported, and every other operation ends with the status its tests found, which is
another. -/
theorem notSupportedExactly : Obligations.NotSupportedExactly := by
  intro i s
  by_cases hi : i ∈ [Instr.gbenc, .gearenc, .rsvddec, .rsvdenc]
  · exact ⟨_, exec_of_unsupported hi s, iff_of_true (errorResult_status _ _) hi⟩
  · obtain ⟨check, r, hexec, hr, hcheck⟩ := exec_eq_conclude_of_supported hi s
    exact ⟨_, hexec, iff_of_false (by rwa [conclude_status hr]) hi⟩

end Sys2Proof.Machine
end

section
/-! The decoder of operands and the records that present an operation: one equation per command word (30_encoding.md
R60 to R63, R70), and the round trips between the two (10_state.md R25). -/

namespace Sys2Proof.Machine

/-! ## What each command word selects -/

/-- CMD 001 selects NES encode, and the presence of a condition its variant (R63). -/
theorem decode_of_cmd_nesEncode {r : Operands} (hcmd : r.cmd = 0b001#3) :
    decode r =
      if r.condPresent then .ok (.nesenc8 r.addrStr r.valStr r.condStr) else .ok (.nesenc6 r.addrStr r.valStr) := by
  simp [decode, platformOf, directionOf, hcmd]

/-- CMD 010 selects Game Boy decode, and the stripped length its variant (R63). -/
theorem decode_of_cmd_gb {r : Operands} (hcmd : r.cmd = 0b010#3) :
    decode r =
      if (strip r.code).length = 6 then .ok (.gbdec6 r.code r.ramOptin)
      else if (strip r.code).length = 9 then .ok (.gbdec9 r.code r.ramOptin)
      else .error .hexNoVariant := by
  simp [decode, platformOf, directionOf, hcmd]

/-- CMD 100 selects Game Gear decode, and the stripped length its variant (R63). -/
theorem decode_of_cmd_gear {r : Operands} (hcmd : r.cmd = 0b100#3) :
    decode r =
      if (strip r.code).length = 6 then .ok (.geardec6 r.code r.ramOptin)
      else if (strip r.code).length = 9 then .ok (.geardec9 r.code r.ramOptin)
      else .error .hexNoVariant := by
  simp [decode, platformOf, directionOf, hcmd]

/-- The four unsupported command words select one operation each, whatever the other fields hold (R63). -/
theorem decode_of_cmd_unsupported (r : Operands) :
    (r.cmd = 0b011#3 → decode r = .ok .gbenc) ∧ (r.cmd = 0b101#3 → decode r = .ok .gearenc) ∧
      (r.cmd = 0b110#3 → decode r = .ok .rsvddec) ∧ (r.cmd = 0b111#3 → decode r = .ok .rsvdenc) := by
  refine ⟨?_, ?_, ?_, ?_⟩ <;> intro hcmd <;> simp [decode, platformOf, directionOf, hcmd]

/-- The eight command words (R60). -/
theorem cmd_cases (cmd : BitVec 3) :
    cmd = 0b000#3 ∨ cmd = 0b001#3 ∨ cmd = 0b010#3 ∨ cmd = 0b011#3 ∨ cmd = 0b100#3 ∨ cmd = 0b101#3 ∨ cmd = 0b110#3 ∨
      cmd = 0b111#3 := by
  revert cmd; decide

/-- Settles O16: each row of the table is one branch of the equation of its command word. -/
theorem variantSelection : Obligations.VariantSelection := by
  intro r
  obtain ⟨hgbenc, hgearenc, hrsvddec, hrsvdenc⟩ := decode_of_cmd_unsupported r
  refine ⟨fun hcmd => ?_, fun hcmd => ?_, fun hcmd => ?_, hgbenc, fun hcmd => ?_, hgearenc, hrsvddec, hrsvdenc⟩
  · rw [decode_of_cmd_nes hcmd]
    exact ⟨fun h => by simp [h], fun h => by simp [h], fun ⟨h6, h8⟩ => by simp [h6, h8]⟩
  · rw [decode_of_cmd_nesEncode hcmd]
    exact ⟨fun h => by simp [h], fun h => by simp [h]⟩
  · rw [decode_of_cmd_gb hcmd]
    exact ⟨fun h => by simp [h], fun h => by simp [h], fun ⟨h6, h9⟩ => by simp [h6, h9]⟩
  · rw [decode_of_cmd_gear hcmd]
    exact ⟨fun h => by simp [h], fun h => by simp [h], fun ⟨h6, h9⟩ => by simp [h6, h9]⟩

/-- Settles O17: each of the five records stands in the row of its command word and of the length of its operands. -/
theorem writtenRecordsDecode : Obligations.WrittenRecordsDecode :=
  ⟨(decode_of_cmd_nes rfl).trans rfl, (decode_of_cmd_nesEncode rfl).trans rfl, (decode_of_cmd_gb rfl).trans rfl,
    (decode_of_cmd_gear rfl).trans rfl, (decode_of_cmd_unsupported _).2.1 rfl⟩

/-! ## Decode after encode, encode after decode -/

/-- Settles O18: the record of an operation carries its command word and its operands, and well-formedness gives the
length by which the decoder tells the two variants of a command apart. -/
theorem decodeEncodeAgree : Obligations.DecodeEncodeAgree := by
  intro p i hwf
  cases i with
  | nesdec6 code | nesdec8 code =>
    obtain ⟨-, hlen⟩ : Str.fits p code = true ∧ code.length = _ := by simpa [Instr.wellFormed] using hwf
    rw [decode_of_cmd_nes rfl]
    simp [encode, hlen]
  | nesenc6 addr value | nesenc8 addr value cond => exact decode_of_cmd_nesEncode rfl
  | gbdec6 code optin | gbdec9 code optin =>
    obtain ⟨-, hlen⟩ : Str.fits p code = true ∧ (strip code).length = _ := by simpa [Instr.wellFormed] using hwf
    rw [decode_of_cmd_gb rfl]
    simp [encode, hlen]
  | geardec6 code optin | geardec9 code optin =>
    obtain ⟨-, hlen⟩ : Str.fits p code = true ∧ (strip code).length = _ := by simpa [Instr.wellFormed] using hwf
    rw [decode_of_cmd_gear rfl]
    simp [encode, hlen]
  | gbenc | gearenc | rsvddec | rsvdenc => rfl

/-- What a decoded record holds, by the operation it decodes to: the operation's command word and operands, at the
length of its variant (R63, R70). -/
def Selects (r : Operands) : Instr → Prop
  | .nesdec6 code => r.cmd = 0b000#3 ∧ code = r.code ∧ code.length = 6
  | .nesdec8 code => r.cmd = 0b000#3 ∧ code = r.code ∧ code.length = 8
  | .nesenc6 addr value => r.cmd = 0b001#3 ∧ r.condPresent = false ∧ addr = r.addrStr ∧ value = r.valStr
  | .nesenc8 addr value cond =>
    r.cmd = 0b001#3 ∧ r.condPresent = true ∧ addr = r.addrStr ∧ value = r.valStr ∧ cond = r.condStr
  | .gbdec6 code optin => r.cmd = 0b010#3 ∧ code = r.code ∧ optin = r.ramOptin ∧ (strip code).length = 6
  | .gbdec9 code optin => r.cmd = 0b010#3 ∧ code = r.code ∧ optin = r.ramOptin ∧ (strip code).length = 9
  | .gbenc => r.cmd = 0b011#3
  | .geardec6 code optin => r.cmd = 0b100#3 ∧ code = r.code ∧ optin = r.ramOptin ∧ (strip code).length = 6
  | .geardec9 code optin => r.cmd = 0b100#3 ∧ code = r.code ∧ optin = r.ramOptin ∧ (strip code).length = 9
  | .gearenc => r.cmd = 0b101#3
  | .rsvddec => r.cmd = 0b110#3
  | .rsvdenc => r.cmd = 0b111#3

/-- A selection between two lengths answers an operation only at one of the two (R63). -/
theorem eq_of_variant_eq_ok {n short long : Nat} {i j k : Instr} {e : DecodeError}
    (h : (if n = short then .ok i else if n = long then .ok j else .error e : Except DecodeError Instr) = .ok k) :
    (n = short ∧ k = i) ∨ (n = long ∧ k = j) := by
  split at h
  next hshort => cases h; exact .inl ⟨hshort, rfl⟩
  next =>
    split at h
    next hlong => cases h; exact .inr ⟨hlong, rfl⟩
    next => cases h

/-- The decoder answers an operation only for a record that selects it (R63). -/
theorem selects_of_decode {r : Operands} {i : Instr} (h : decode r = .ok i) : Selects r i := by
  obtain ⟨hgbenc, hgearenc, hrsvddec, hrsvdenc⟩ := decode_of_cmd_unsupported r
  rcases cmd_cases r.cmd with hcmd | hcmd | hcmd | hcmd | hcmd | hcmd | hcmd | hcmd
  case inl =>
    rw [decode_of_cmd_nes hcmd] at h
    rcases eq_of_variant_eq_ok h with ⟨hlen, rfl⟩ | ⟨hlen, rfl⟩ <;> exact ⟨hcmd, rfl, hlen⟩
  case inr.inl =>
    rw [decode_of_cmd_nesEncode hcmd] at h
    split at h
    next hcond => cases h; exact ⟨hcmd, hcond, rfl, rfl, rfl⟩
    next hcond => cases h; exact ⟨hcmd, by simpa using hcond, rfl, rfl⟩
  case inr.inr.inl =>
    rw [decode_of_cmd_gb hcmd] at h
    rcases eq_of_variant_eq_ok h with ⟨hlen, rfl⟩ | ⟨hlen, rfl⟩ <;> exact ⟨hcmd, rfl, rfl, hlen⟩
  case inr.inr.inr.inr.inl =>
    rw [decode_of_cmd_gear hcmd] at h
    rcases eq_of_variant_eq_ok h with ⟨hlen, rfl⟩ | ⟨hlen, rfl⟩ <;> exact ⟨hcmd, rfl, rfl, hlen⟩
  · rw [hgbenc hcmd] at h; cases h; exact hcmd
  · rw [hgearenc hcmd] at h; cases h; exact hcmd
  · rw [hrsvddec hcmd] at h; cases h; exact hcmd
  · rw [hrsvdenc hcmd] at h; cases h; exact hcmd

/-- A record that fits its ports selects a well-formed operation (R222). -/
theorem wellFormed_of_selects {p : Params} {r : Operands} {i : Instr} (h : Selects r i)
    (hfits : r.presentable p = true) : i.wellFormed p = true := by
  unfold Operands.presentable at hfits
  cases i with
  | nesdec6 code | nesdec8 code =>
    obtain ⟨hcmd, rfl, hlen⟩ := h
    have hcode : Str.fits p r.code = true := by simpa [hcmd, platformOf, directionOf] using hfits
    simp [Instr.wellFormed, hcode, hlen]
  | nesenc6 addr value =>
    obtain ⟨hcmd, hcond, rfl, rfl⟩ := h
    simpa [Instr.wellFormed, hcmd, hcond, platformOf, directionOf] using hfits
  | nesenc8 addr value cond =>
    obtain ⟨hcmd, hcond, rfl, rfl, rfl⟩ := h
    simpa [Instr.wellFormed, hcmd, hcond, platformOf, directionOf] using hfits
  | gbdec6 code optin | gbdec9 code optin | geardec6 code optin | geardec9 code optin =>
    obtain ⟨hcmd, rfl, -, hlen⟩ := h
    have hcode : Str.fits p r.code = true := by simpa [hcmd, platformOf, directionOf] using hfits
    simp [Instr.wellFormed, hcode, hlen]
  | gbenc | gearenc | rsvddec | rsvdenc => rfl

/-- Settles O19: a record that decodes to an operation selects it, so its command word and the fields the operation
reads are those `encode` writes. -/
theorem encodeReproducesReadFields : Obligations.EncodeReproducesReadFields := by
  intro p r i h
  have hsel := selects_of_decode h
  refine ⟨?_, wellFormed_of_selects hsel, ?_⟩
  · cases i with
    | gbenc | gearenc | rsvddec | rsvdenc => exact hsel.symm
    | _ => exact hsel.1.symm
  · cases i with
    | nesdec6 code | nesdec8 code =>
      obtain ⟨hcmd, rfl, -⟩ := hsel
      simp [hcmd, encode]
    | nesenc6 addr value =>
      obtain ⟨hcmd, hcond, rfl, rfl⟩ := hsel
      simp [hcmd, hcond, encode, Operands.bare, directionOf]
    | nesenc8 addr value cond =>
      obtain ⟨hcmd, hcond, rfl, rfl, rfl⟩ := hsel
      simp [hcmd, hcond, encode, directionOf]
    | gbdec6 code optin | gbdec9 code optin | geardec6 code optin | geardec9 code optin =>
      obtain ⟨hcmd, rfl, rfl, -⟩ := hsel
      simp [hcmd, encode]
    | gbenc | gearenc => simp [show r.cmd = _ from hsel, directionOf]
    | rsvddec | rsvdenc => simp [show r.cmd = _ from hsel, platformOf, directionOf]

end Sys2Proof.Machine
end

section
/-! Presenting a record and taking a step: what each runs (20_memory.md R48), when it completes (70_reset_and_hazards.md
R222, R227), and what it leaves unchanged (10_state.md R24, R31). -/

namespace Sys2Proof.Machine

open Sys2Proof.Laws

/-! ## What a presented record runs -/

/-- A record that fits its ports and selects an operation runs it (R25). -/
theorem present_of_decode_ok {r : Operands} {s : State} {i : Instr} (hfits : r.presentable s.params = true)
    (h : decode r = .ok i) : present r s = exec i s := by
  rw [present, if_pos hfits, h]

/-- A record that fits its ports and selects no variant ends in the error its tests find (R63). -/
theorem present_of_decode_error {r : Operands} {s : State} {e : DecodeError} (hfits : r.presentable s.params = true)
    (h : decode r = .error e) : present r s = .next (rejectRecord e r s) := by
  rw [present, if_pos hfits, h]

/-- A step on a presented record presents it, taken from the host's list (R28). -/
theorem step_of_op {s : State} {r : Operands} {rest : List HostInput} (h : s.hostInputs = .op r :: rest) :
    step s = present r { s with hostInputs := rest } := by
  rw [step, h]

/-- A step on a reset pulse takes it from the host's list and resets (70_reset_and_hazards.md section 4). -/
theorem step_of_reset {s : State} {rest : List HostInput} (h : s.hostInputs = .reset :: rest) :
    step s = .next (resetSignal { s with hostInputs := rest }) := by
  rw [step, h]

/-- Settles O20: the record fits and selects `i`, so presenting it is running `i`. -/
theorem stepRunsDecodedOperation : Obligations.StepRunsDecodedOperation :=
  fun _ _ _ _ hin hfits hdec => (step_of_op hin).trans (present_of_decode_ok hfits hdec)

/-- Settles O21: the empty list is the waiting branch of a step. -/
theorem stepWaitsForHost : Obligations.StepWaitsForHost := by
  intro s h
  rw [step, h, waitForHost]

/-- Settles O5: the reset branch of a step empties the list of entries that differ from the reset contents. -/
theorem resetSignalRestoresTables : Obligations.ResetSignalRestoresTables :=
  fun _ _ h => ⟨_, step_of_reset h, read_nil, rfl, rfl, rfl⟩

/-- Settles O23: a presented record is refused for its size or delivers a result, and its size alone decides which. -/
theorem presentableRecordsComplete : Obligations.PresentableRecordsComplete := by
  intro s r rest hin
  rw [step_of_op hin]
  rcases present_cases r { s with hostInputs := rest } with ⟨hfits, h⟩ | ⟨hfits, q, h⟩
  · exact ⟨fun hfits' => absurd (hfits.symm.trans hfits') nofun, fun _ => h⟩
  · exact ⟨fun _ => ⟨_, h, rfl, rfl⟩, fun hfits' => absurd (hfits.symm.trans hfits') nofun⟩

/-- The record that presents a well-formed operation fits its ports (R222, R227). -/
theorem encode_presentable {p : Params} {i : Instr} (h : i.wellFormed p = true) : (encode i).presentable p = true := by
  cases i with
  | nesdec6 code => exact EncodeFits.nesdec6 code p h
  | nesdec8 code => exact EncodeFits.nesdec8 code p h
  | nesenc6 addr value => exact EncodeFits.nesenc6 addr value p h
  | nesenc8 addr value cond => exact EncodeFits.nesenc8 addr value cond p h
  | gbdec6 code optin => exact EncodeFits.gbdec6 code optin p h
  | gbdec9 code optin => exact EncodeFits.gbdec9 code optin p h
  | geardec6 code optin => exact EncodeFits.geardec6 code optin p h
  | geardec9 code optin => exact EncodeFits.geardec9 code optin p h
  | gbenc | gearenc | rsvddec | rsvdenc => rfl

/-- Settles O24: both records run the same operation, since the record of a well-formed operation fits its ports and
decodes back. -/
theorem unreadFieldsHaveNoEffect : Obligations.UnreadFieldsHaveNoEffect := by
  intro s r i h hfits
  have hwf := wellFormed_of_selects (selects_of_decode h) hfits
  rw [present_of_decode_ok hfits h, present_of_decode_ok (encode_presentable hwf) (decodeEncodeAgree _ i hwf)]

/-- Settles O52: such a record selects one of the four operations, fits whatever its fields hold, and raises
NotSupported. -/
theorem unsupportedIgnoresOperands : Obligations.UnsupportedIgnoresOperands := by
  intro s r hcmd
  obtain ⟨hgbenc, hgearenc, hrsvddec, hrsvdenc⟩ := decode_of_cmd_unsupported r
  refine ⟨?_, errorResult_status _ _⟩
  rcases hcmd with hcmd | hcmd | hcmd | hcmd
  all_goals have hfits : r.presentable s.params = true := by simp [Operands.presentable, hcmd, platformOf, directionOf]
  · rw [present_of_decode_ok hfits (hgbenc hcmd), exec_of_unsupported (by decide)]
  · rw [present_of_decode_ok hfits (hgearenc hcmd), exec_of_unsupported (by decide)]
  · rw [present_of_decode_ok hfits (hrsvddec hcmd), exec_of_unsupported (by decide)]
  · rw [present_of_decode_ok hfits (hrsvdenc hcmd), exec_of_unsupported (by decide)]

/-! ## Frames -/

/-- Settles O54: an operation delivers one record, and delivering writes nothing else. -/
theorem operationFrame : Obligations.OperationFrame := by
  intro i s t h
  obtain ⟨r, hr⟩ := exec_delivers i s
  obtain rfl : s.deliver r = t := Host.Outcome.next.inj (hr.symm.trans h)
  exact ⟨fun _ => rfl, rfl, rfl, rfl⟩

/-- Settles O55: a step waits with nothing to take, resets, or delivers the record of the operation it took. -/
theorem stepFrame : Obligations.StepFrame := by
  intro s t h
  rcases step_cases h with ⟨hin, rfl⟩ | ⟨rest, hin, rfl⟩ | ⟨r, rest, q, hin, -, -, rfl⟩
  · exact ⟨rfl, by rw [hin, List.tail_nil], fun _ _ => rfl, fun hreset => by simp [hin] at hreset⟩
  · exact ⟨rfl, by rw [hin]; rfl, fun hop => absurd (by rw [hin]; rfl) hop, fun _ => read_nil⟩
  · exact ⟨rfl, by rw [hin]; rfl, fun _ _ => rfl, fun hreset => by simp [hin] at hreset⟩

end Sys2Proof.Machine
end

section
/-! The shared logic and the tables as ASCII codes (40_common_logic.md R90 to R93, R100; 10_state.md R23), and the
invariant right after reset (R32). -/

namespace Sys2Proof.Machine

/-! ## Characters -/

/-- Settles O7: the one branch of `upcase` that changes a code is taken on the 26 lower-case letters. -/
theorem upcaseFoldsLettersOnly : Obligations.UpcaseFoldsLettersOnly := by
  intro ch
  refine ⟨fun ⟨hlo, hhi⟩ => ?_, fun hother => upcase_of_not_lower fun ⟨hlo, hhi⟩ => ?_⟩
  · have hlower : 0x61#8 ≤ ch ∧ ch ≤ 0x7A#8 := ⟨BitVec.le_def.2 hlo, BitVec.le_def.2 hhi⟩
    rw [upcase, if_pos hlower]
    bv_omega
  · exact hother.elim (Nat.not_lt.2 (BitVec.le_def.1 hlo)) (Nat.not_lt.2 (BitVec.le_def.1 hhi))

/-- Settles O12: `strip` filters by being no dash, one character after the other. -/
theorem stripRemovesEveryDash : Obligations.StripRemovesEveryDash :=
  ⟨rfl, fun _ => List.filter_cons_of_neg (by simp), fun _ _ hch => List.filter_cons_of_pos (by simpa using hch)⟩

/-- A character is a hex digit exactly when the hex table holds its upper case (R93). -/
theorem isHex_iff {m : Memory} {ch : Byte} : isHex m ch = true ↔ ∃ k, lutSym m .hex k = upcase ch := by
  refine ⟨fun h => ⟨_, lutSym_of_lutFind (Prod.ext h rfl)⟩, fun ⟨k, hk⟩ => ?_⟩
  cases hf : isHex m ch with
  | true => rfl
  | false => exact absurd hk ((lutFind_miss hf).2 k)

/-- Sixteen symbols read by the sixteen nibbles are all the symbols there are. -/
theorem exists_getD_toNat_eq_iff {symbols : List Byte} (hlen : symbols.length = 16) {ch : Byte} :
    (∃ k : Nibble, symbols.getD k.toNat 0#8 = ch) ↔ ch ∈ symbols := by
  constructor
  · rintro ⟨k, rfl⟩
    have hk : k.toNat < symbols.length := hlen ▸ k.isLt
    rw [List.getD_eq_getElem _ _ hk]
    exact List.getElem_mem hk
  · intro hmem
    obtain ⟨i, hi, rfl⟩ := List.getElem_of_mem hmem
    refine ⟨BitVec.ofNat 4 i, ?_⟩
    have hlt : i < 2 ^ 4 := by omega
    rw [BitVec.toNat_ofNat, Nat.mod_eq_of_lt hlt, List.getD_eq_getElem _ _ hi]

/-- The codes that fold to a digit of ALPHA_HEX are the hex digits in either case (R90, R93). -/
theorem upcase_mem_alphaHex_iff (ch : Byte) : upcase ch ∈ alphaHex ↔ ch ∈ ascii "0123456789ABCDEFabcdef" := by
  revert ch; decide +kernel

/-- The white-space codes (R91). -/
theorem isWs_iff (ch : Byte) : isWs ch = true ↔ ch ∈ [0x09#8, 0x0A#8, 0x0B#8, 0x0C#8, 0x0D#8, 0x20#8] := by
  revert ch; decide +kernel

/-- The digit codes (R92). -/
theorem isDigit_iff (ch : Byte) : isDigit ch = true ↔ ch ∈ ascii "0123456789" := by
  revert ch; decide +kernel

/-- Settles O8: the classes of white space and digits are ranges of codes, and a hex digit is what the fixed hex table
holds after folding. -/
theorem characterClasses : Obligations.CharacterClasses := by
  intro s hs ch
  refine ⟨isWs_iff ch, isDigit_iff ch, ?_⟩
  rw [isHex_iff, ← upcase_mem_alphaHex_iff, ← exists_getD_toNat_eq_iff rfl]
  simp only [lutSym_hex_of_fixed hs.fixed]

/-! ## The tables -/

/-- The fixed contents make the hex table a bijection, because ALPHA_HEX repeats no symbol (R22, R23). -/
theorem tableBijective_hex_of_fixed {m : Memory} (hm : LutFixed m) : TableBijective m .hex := by
  intro k j h
  rw [lutSym_hex_of_fixed hm, lutSym_hex_of_fixed hm] at h
  exact eq_of_getD_toNat_eq (by decide) rfl h

/-- In the fixed contents every entry of either table is a symbol of its alphabet (R21, R22). -/
theorem lutSym_mem_of_fixed {m : Memory} (hm : LutFixed m) (t : Table) (k : Nibble) :
    lutSym m t k ∈ alphaNes ++ alphaHex := by
  cases t with
  | nes => exact List.mem_append_left _ (lutSym_nes_mem_of_fixed hm k)
  | hex =>
    exact List.mem_append_right _ ((exists_getD_toNat_eq_iff rfl).1 ⟨k, (lutSym_hex_of_fixed hm k).symm⟩)

/-- No symbol of either alphabet is a lower-case letter, white space or the dash (R21 to R23). -/
theorem alphabet_classes :
    ∀ ch ∈ alphaNes ++ alphaHex, ¬(0x61#8 ≤ ch ∧ ch ≤ 0x7A#8) ∧ isWs ch = false ∧ ch ≠ dash := by decide

/-- No symbol of ALPHA_NES is a digit (R21, R23). -/
theorem isDigit_of_mem_alphaNes : ∀ ch ∈ alphaNes, isDigit ch = false := by decide

/-- The fixed contents meet the invariant of the lookup RAM (R21 to R24). -/
theorem lutInvariant_of_fixed {m : Memory} (hm : LutFixed m) : LutInvariant m where
  nesBijective := tableBijective_nes_of_fixed hm
  hexBijective := tableBijective_hex_of_fixed hm
  upperCase t k := (alphabet_classes _ (lutSym_mem_of_fixed hm t k)).1
  noWhiteSpace t k := (alphabet_classes _ (lutSym_mem_of_fixed hm t k)).2.1
  noDash t k := (alphabet_classes _ (lutSym_mem_of_fixed hm t k)).2.2
  nesNoDigit k := isDigit_of_mem_alphaNes _ (lutSym_nes_mem_of_fixed hm k)

/-- Settles O2: the invariant fixes the contents, and both alphabets have all that R23 asks. -/
theorem tablesAreBijections : Obligations.TablesAreBijections := fun _ hs => lutInvariant_of_fixed hs.fixed

/-- Settles O3: after reset nothing is listed, the parameters have their default values, and no operation has
completed. -/
theorem invariantHoldsAtReset : Obligations.InvariantHoldsAtReset where
  canonical := wf_nil
  fixed := read_nil
  params := show 11 ≤ 16 by decide
  strings := by simp [State.reset, State.resetResult, StringsFit]
  coherent := nofun

/-! ## The text form of a patch -/

/-- Folding leaves a digit of the hex table as it is (R90; 10_state.md R23). -/
theorem upcase_hexdigit {m : Memory} (hm : LutInvariant m) (k : Nibble) : upcase (hexdigit m k) = hexdigit m k :=
  upcase_of_not_lower (hm.upperCase .hex k)

/-- A digit of the hex table maps back to its own nibble (R95; 10_state.md R23). -/
theorem nibHex_hexdigit {m : Memory} (hm : LutInvariant m) (k : Nibble) : nibHex m (hexdigit m k) = (true, k) := by
  rw [nibHex, upcase_hexdigit hm, hexdigit, lutFind_lutSym hm.hexBijective]

/-- The four groups of an address, most significant first (00_scope.md R9). -/
def addrNibbles (a : BitVec 16) : List Nibble :=
  [a.extractLsb' 12 4, a.extractLsb' 8 4, a.extractLsb' 4 4, a.extractLsb' 0 4]

/-- The two groups of a byte, the high one first (00_scope.md R9). -/
def byteNibbles (b : Byte) : List Nibble := [b.extractLsb' 4 4, b.extractLsb' 0 4]

/-- The text of an address writes its groups as digits (30_encoding.md R68). -/
theorem addrText_eq_map (m : Memory) (r : Result) : addrText m r = (addrNibbles r.addr).map (hexdigit m) := rfl

/-- The text of a byte writes its groups as digits (30_encoding.md R68). -/
theorem byteText_eq_map (m : Memory) (b : Byte) : byteText m b = (byteNibbles b).map (hexdigit m) := rfl

/-- The groups of an address, joined, are the address (00_scope.md R9). -/
theorem append_addrNibbles (a : BitVec 16) :
    a.extractLsb' 12 4 ++ a.extractLsb' 8 4 ++ a.extractLsb' 4 4 ++ a.extractLsb' 0 4 = a := by
  have hhigh : a.extractLsb' 12 4 ++ a.extractLsb' 8 4 = a.extractLsb' 8 8 :=
    BitVec.extractLsb'_append_extractLsb'_eq_extractLsb' rfl
  have hupper : a.extractLsb' 8 8 ++ a.extractLsb' 4 4 = a.extractLsb' 4 12 :=
    BitVec.extractLsb'_append_extractLsb'_eq_extractLsb' rfl
  rw [hhigh, hupper]
  exact BitVec.extractLsb'_append_extractLsb' (w := 12) (len := 4)

/-- The groups of a byte, joined, are the byte (00_scope.md R9). -/
theorem append_byteNibbles (b : Byte) : b.extractLsb' 4 4 ++ b.extractLsb' 0 4 = b :=
  BitVec.extractLsb'_append_extractLsb' (w := 4) (len := 4)

/-- Every digit of a text of hex digits is a hex digit, in upper case (R93, R97). -/
theorem isHex_and_upcase_of_mem_map_hexdigit {m : Memory} (hm : LutInvariant m) {ks : List Nibble} {ch : Byte}
    (hch : ch ∈ ks.map (hexdigit m)) : isHex m ch = true ∧ upcase ch = ch := by
  obtain ⟨k, -, rfl⟩ := List.mem_map.1 hch
  exact ⟨by rw [isHex_eq, nibHex_hexdigit hm], upcase_hexdigit hm k⟩

/-- Settles O15: the texts are the digits of the groups of the patch, which read back as those groups. -/
theorem patchTextAgreesWithBits : Obligations.PatchTextAgreesWithBits := by
  intro m hm r
  have hdigits : ∀ ch ∈ addrText m r ++ valueText m r ++ conditionText m r, isHex m ch = true ∧ upcase ch = ch := by
    intro ch hch
    rw [addrText_eq_map, valueText, conditionText, byteText_eq_map, byteText_eq_map, ← List.map_append,
      ← List.map_append] at hch
    exact isHex_and_upcase_of_mem_map_hexdigit hm hch
  have hbyte : ∀ b : Byte, digitNib m (byteText m b) 0 ++ digitNib m (byteText m b) 1 = b := by
    intro b
    simp only [digitNib, byteText, List.getD_cons_zero, List.getD_cons_succ, nibHex_hexdigit hm]
    exact append_byteNibbles b
  refine ⟨rfl, rfl, rfl, fun ch hch => (hdigits ch hch).1, fun ch hch => (hdigits ch hch).2, ?_, hbyte r.value,
    hbyte r.condition⟩
  simp only [digitNib, addrText, List.getD_cons_zero, List.getD_cons_succ, nibHex_hexdigit hm]
  exact append_addrNibbles r.addr

/-! ## Statuses -/

/-- Settles O14: the seven statuses have the seven lowest codes, so 7 is left over. -/
theorem statusCodes : Obligations.StatusCodes :=
  ⟨rfl, rfl, rfl, rfl, rfl, rfl, rfl, fun e => by cases e <;> decide⟩

end Sys2Proof.Machine
end

section
/-! Every operation said once, as its tests and the record it delivers when they find nothing (60_exceptions.md R197,
R199); and from that, which errors each command can end in and when (R191 to R196). -/

namespace Sys2Proof.Machine

/-! ## The record a success starts from (10_state.md R27) -/

@[simp] theorem successResult_condValid (s : State) : (successResult s).condValid = false := rfl
@[simp] theorem successResult_noOp (s : State) : (successResult s).noOp = false := rfl
@[simp] theorem successResult_invalidSymbols (s : State) : (successResult s).invalidSymbols = false := rfl
@[simp] theorem successResult_replacementCode (s : State) : (successResult s).replacementCode = none := rfl
@[simp] theorem successResult_ramTargeted (s : State) : (successResult s).ramTargeted = false := rfl
@[simp] theorem successResult_parityMismatch (s : State) : (successResult s).parityMismatch = false := rfl
@[simp] theorem successResult_correctedCode (s : State) : (successResult s).correctedCode = none := rfl
@[simp] theorem successResult_displayCode (s : State) : (successResult s).displayCode = none := rfl
@[simp] theorem successResult_primaryCode (s : State) : (successResult s).primaryCode = none := rfl
@[simp] theorem successResult_siblingCode (s : State) : (successResult s).siblingCode = none := rfl

/-! ## The tests and the record of an operation -/

/-- What the tests of an operation find; the operations defined to fail find NotSupported (44_unsupported.md). -/
def operationCheck (s : State) : Instr → Status
  | .nesdec6 code | .nesdec8 code => nesDecodeCheck code s
  | .nesenc6 addr value => nesEncodeCheck6 addr value s
  | .nesenc8 addr value cond => nesEncodeCheck8 addr value cond s
  | .gbdec6 code optin | .gbdec9 code optin => hexDecodeCheck gbThreshold code optin s
  | .geardec6 code optin | .geardec9 code optin => hexDecodeCheck gearThreshold code optin s
  | .gbenc | .gearenc | .rsvddec | .rsvdenc => .notSupported

/-- The record an operation delivers when its tests find nothing, which those defined to fail never do. -/
def operationRecord (s : State) : Instr → Result
  | .nesdec6 code => nesDecodeResult6 code s
  | .nesdec8 code => nesDecodeResult8 code s
  | .nesenc6 addr value => nesEncodeResult6 addr value s
  | .nesenc8 addr value cond => nesEncodeResult8 addr value cond s
  | .gbdec6 code _ => hexDecodeResult6 gbThreshold code s
  | .gbdec9 code _ => hexDecodeResult9 gbThreshold code s
  | .geardec6 code _ => hexDecodeResult6 gearThreshold code s
  | .geardec9 code _ => hexDecodeResult9 gearThreshold code s
  | .gbenc | .gearenc | .rsvddec | .rsvdenc => blankResult

/-- Every operation concludes what its tests find, with its record at hand (60_exceptions.md R197). -/
theorem exec_eq_conclude (i : Instr) (s : State) :
    exec i s = .next (conclude (operationCheck s i) (operationRecord s i) s) := by
  cases i <;> rfl

/-- The record at hand is one of success. -/
@[simp] theorem operationRecord_status (s : State) (i : Instr) : (operationRecord s i).status = .success := by
  cases i <;> rfl

/-- An operation ends with the status its tests find (60_exceptions.md R197). -/
theorem status_of_exec {i : Instr} {s t : State} (h : exec i s = .next t) :
    t.result.status = operationCheck s i := by
  obtain rfl := Host.Outcome.next.inj ((exec_eq_conclude i s).symm.trans h)
  exact conclude_status (operationRecord_status s i) _ s

/-- An operation that succeeds has found nothing and delivered its record. -/
theorem eq_deliver_operationRecord {i : Instr} {s t : State} (h : exec i s = .next t)
    (hstatus : t.result.status = .success) : t = s.deliver (operationRecord s i) := by
  have hcheck := (status_of_exec h).symm.trans hstatus
  rw [exec_eq_conclude, hcheck] at h
  exact (Host.Outcome.next.inj h).symm

/-- Every operation completes, with the status its tests find. -/
theorem exists_exec_status (i : Instr) (s : State) :
    ∃ t, exec i s = .next t ∧ t.result.status = operationCheck s i :=
  ⟨_, exec_eq_conclude i s, conclude_status (operationRecord_status s i) _ s⟩

/-! ## The tests at a good length -/

/-- A NES code is unclean exactly when some character is white space or a digit (41_nes_decode.md R111). -/
theorem not_nesClean_iff {code : Str} : ¬NesClean code ↔ ∃ ch ∈ code, isWs ch = true ∨ isDigit ch = true := by
  rw [nesClean_iff, Bool.not_eq_false, List.any_eq_true]
  simp only [Bool.or_eq_true]

/-- A text is not all hex exactly when some character is no hex digit (40_common_logic.md R93). -/
theorem not_allHex_iff {m : Memory} {text : Str} : ¬AllHex m text ↔ ∃ ch ∈ text, isHex m ch = false := by
  simp [AllHex]

/-- Where one test is left, its error says that it failed, and any other end is success. -/
theorem status_of_single_test {good : Prop} [Decidable good] {e status : Status} (he : e ≠ .success)
    (h : status = if good then .success else e) : (status = e ↔ ¬good) ∧ (status ≠ e → status = .success) := by
  subst h
  by_cases hgood : good
  · simp [hgood, he.symm]
  · simp [hgood]

/-- The tests of NES decode on a code of a good length (R110, R111). -/
theorem nesDecodeCheck_goodLength {code : Str} (hlen : code.length = 6 ∨ code.length = 8) (s : State) :
    nesDecodeCheck code s = if NesClean code then .success else .invalidSymbol := by
  rw [← conclude_status (successResult_status s) (nesDecodeCheck code s) s, conclude_nesDecodeCheck hlen]
  split <;> simp

/-- Settles O27: at a good length the white space and digit test is the one left. -/
theorem whiteSpaceOrDigitRaises : Obligations.WhiteSpaceOrDigitRaises := by
  intro s code
  refine ⟨fun hlen => ?_, fun hlen => ?_⟩
  · obtain ⟨t, hexec, hstatus⟩ := exists_exec_status (.nesdec6 code) s
    rw [← not_nesClean_iff]
    exact ⟨t, hexec, status_of_single_test nofun (hstatus.trans (nesDecodeCheck_goodLength (.inl hlen) s))⟩
  · obtain ⟨t, hexec, hstatus⟩ := exists_exec_status (.nesdec8 code) s
    rw [← not_nesClean_iff]
    exact ⟨t, hexec, status_of_single_test nofun (hstatus.trans (nesDecodeCheck_goodLength (.inr hlen) s))⟩

/-- The test of NESENC6, on all its characters at once (42_nes_encode.md R130). -/
theorem nesEncodeCheck6_eq (addr value : Str) (s : State) :
    nesEncodeCheck6 addr value s =
      if addr.length = 4 ∧ value.length = 2 ∧ AllHex s.lut (addr ++ value) then .success else .invalidDigit := by
  simp only [nesEncodeCheck6, Bool.and_eq_true, hexOperand_iff, AllHex, List.forall_mem_append]
  congr 1
  simp only [eq_iff_iff]
  tauto

/-- The test of NESENC8, on all its characters at once (42_nes_encode.md R130). -/
theorem nesEncodeCheck8_eq (addr value cond : Str) (s : State) :
    nesEncodeCheck8 addr value cond s =
      if addr.length = 4 ∧ value.length = 2 ∧ cond.length = 2 ∧ AllHex s.lut (addr ++ value ++ cond) then .success
      else .invalidDigit := by
  simp only [nesEncodeCheck8, Bool.and_eq_true, hexOperand_iff, AllHex, List.forall_mem_append]
  congr 1
  simp only [eq_iff_iff]
  tauto

/-- Settles O33: the test of the operands is the one NES encode has. -/
theorem invalidDigitExactly : Obligations.InvalidDigitExactly := by
  intro s addr value cond
  constructor
  · obtain ⟨t, hexec, hstatus⟩ := exists_exec_status (.nesenc6 addr value) s
    obtain ⟨hiff, hother⟩ := status_of_single_test (e := .invalidDigit) nofun
      (hstatus.trans (nesEncodeCheck6_eq addr value s))
    exact ⟨t, hexec, by rw [hiff, not_and_or, not_and_or, not_allHex_iff], hother⟩
  · obtain ⟨t, hexec, hstatus⟩ := exists_exec_status (.nesenc8 addr value cond) s
    obtain ⟨hiff, hother⟩ := status_of_single_test (e := .invalidDigit) nofun
      (hstatus.trans (nesEncodeCheck8_eq addr value cond s))
    exact ⟨t, hexec, by rw [hiff, not_and_or, not_and_or, not_and_or, not_allHex_iff], hother⟩

/-- The tests of a hex code's form find a bad character exactly when there is one (43_hex_decode.md R152). -/
theorem any_not_isHex_eq (m : Memory) (text : Str) :
    (text.any fun ch => !isHex m ch) = !decide (AllHex m text) := by
  rw [List.any_eq_not_all_not]
  simp [AllHex, List.all_eq]

/-- The tests of the form on a hex code of a good length (R151, R152). -/
theorem hexFormCheck_goodLength {code : Str} (hlen : (strip code).length = 6 ∨ (strip code).length = 9) (s : State) :
    hexFormCheck code s = if AllHex s.lut (strip code) then .success else .notHexadecimal := by
  have hgood : (!((strip code).length == 6 || (strip code).length == 9)) = false := by
    rcases hlen with h | h <;> simp [h]
  rw [hexFormCheck, hgood, firstFailure_goodLength, any_not_isHex_eq]
  simp only [Bool.not_eq_true', decide_eq_false_iff_not, ite_not]

/-- Hex decode ends in the error its form has, if it has one (R151 to R153; 60_exceptions.md R199). -/
theorem hexDecodeCheck_of_form {tRam : Nibble} {code : Str} {optin : Bool} {s : State} {e : Status} (he : e ≠ .success)
    (hform : hexFormCheck code s = e) : hexDecodeCheck tRam code optin s = e := by
  rw [hexDecodeCheck, hform]
  cases e with
  | success => exact absurd rfl he
  | _ => rfl

/-- The tests of hex decode on a code of a good length: its characters, then the opt-in for a RAM target (R152 to
R154). -/
theorem hexDecodeCheck_goodLength {code : Str} (hlen : (strip code).length = 6 ∨ (strip code).length = 9)
    (tRam : Nibble) (optin : Bool) (s : State) :
    hexDecodeCheck tRam code optin s =
      if AllHex s.lut (strip code) then
        if hexSym s.lut code 5 < tRam ∧ optin = false then .ramTargetDeclined else .success
      else .notHexadecimal := by
  split
  next hhex =>
    rw [← conclude_status (successResult_status s) (hexDecodeCheck tRam code optin s) s,
      conclude_hexDecodeCheck hlen hhex]
    split <;> simp
  next hhex => exact hexDecodeCheck_of_form nofun ((hexFormCheck_goodLength hlen s).trans (if_neg hhex))

/-- A well-formed hex decode has a code of a good stripped length (30_encoding.md R63). -/
theorem stripped_length_of_wellFormed {op : Str → Bool → Instr}
    (hop : op ∈ [Instr.gbdec6, Instr.gbdec9, Instr.geardec6, Instr.geardec9]) {p : Params} {code : Str} {optin : Bool}
    (hwf : (op code optin).wellFormed p = true) : (strip code).length = 6 ∨ (strip code).length = 9 := by
  simp only [List.mem_cons, List.not_mem_nil, or_false] at hop
  rcases hop with rfl | rfl | rfl | rfl <;>
    simp only [Instr.wellFormed, Bool.and_eq_true, beq_iff_eq] at hwf <;>
    simp [hwf.2]

/-- Settles O42: the tests of each hex decode are the same but for the threshold, and at a good length they find a
character that is no hex digit exactly when there is one. -/
theorem notHexadecimalExactly : Obligations.NotHexadecimalExactly := by
  intro s p code optin op hop hwf
  have hlen := stripped_length_of_wellFormed hop hwf
  obtain ⟨t, hexec, hstatus⟩ := exists_exec_status (op code optin) s
  refine ⟨t, hexec, ?_⟩
  rw [hstatus, ← not_allHex_iff]
  simp only [List.mem_cons, List.not_mem_nil, or_false] at hop
  have hcheck : ∀ tRam, hexDecodeCheck tRam code optin s = .notHexadecimal ↔ ¬AllHex s.lut (strip code) := by
    intro tRam
    rw [hexDecodeCheck_goodLength hlen]
    split
    next hhex => exact iff_of_false (by split <;> nofun) (not_not_intro hhex)
    next hhex => exact iff_of_true rfl hhex
  rcases hop with rfl | rfl | rfl | rfl <;> exact hcheck _

/-! ## Records of no variant, and errors by command -/

/-- A selection between two lengths fails only at neither (30_encoding.md R63). -/
theorem eq_of_variant_eq_error {n short long : Nat} {i j : Instr} {e e' : DecodeError}
    (h : (if n = short then .ok i else if n = long then .ok j else .error e : Except DecodeError Instr) = .error e') :
    n ≠ short ∧ n ≠ long ∧ e' = e := by
  split at h
  next => cases h
  next hshort =>
    split at h
    next => cases h
    next hlong => cases h; exact ⟨hshort, hlong, rfl⟩

/-- A record selects no variant only by the length of a decode code (30_encoding.md R63). -/
theorem decode_error_cases {r : Operands} {e : DecodeError} (h : decode r = .error e) :
    (e = .nesNoVariant ∧ r.cmd = 0b000#3 ∧ r.code.length ≠ 6 ∧ r.code.length ≠ 8) ∨
      (e = .hexNoVariant ∧ (r.cmd = 0b010#3 ∨ r.cmd = 0b100#3) ∧ (strip r.code).length ≠ 6 ∧
        (strip r.code).length ≠ 9) := by
  obtain ⟨hgbenc, hgearenc, hrsvddec, hrsvdenc⟩ := decode_of_cmd_unsupported r
  rcases cmd_cases r.cmd with hcmd | hcmd | hcmd | hcmd | hcmd | hcmd | hcmd | hcmd
  case inl =>
    rw [decode_of_cmd_nes hcmd] at h
    obtain ⟨h6, h8, rfl⟩ := eq_of_variant_eq_error h
    exact .inl ⟨rfl, hcmd, h6, h8⟩
  case inr.inl =>
    rw [decode_of_cmd_nesEncode hcmd] at h
    split at h <;> cases h
  case inr.inr.inl =>
    rw [decode_of_cmd_gb hcmd] at h
    obtain ⟨h6, h9, rfl⟩ := eq_of_variant_eq_error h
    exact .inr ⟨rfl, .inl hcmd, h6, h9⟩
  case inr.inr.inr.inr.inl =>
    rw [decode_of_cmd_gear hcmd] at h
    obtain ⟨h6, h9, rfl⟩ := eq_of_variant_eq_error h
    exact .inr ⟨rfl, .inr hcmd, h6, h9⟩
  · rw [hgbenc hcmd] at h; cases h
  · rw [hgearenc hcmd] at h; cases h
  · rw [hrsvddec hcmd] at h; cases h
  · rw [hrsvdenc hcmd] at h; cases h

/-- At a bad length the character error is found only when its test comes first (60_exceptions.md R199). -/
theorem firstFailure_badLength (lengthFirst charBad : Bool) {e : Status} (he : e ≠ .invalidLength) :
    (firstFailure lengthFirst true charBad e = e ↔ lengthFirst = false ∧ charBad = true) ∧
      (firstFailure lengthFirst true charBad e = .invalidLength ↔ lengthFirst = true ∨ charBad = false) := by
  cases lengthFirst <;> cases charBad <;> simp [firstFailure, he, he.symm]

/-- What the tests find on a record of no variant (log entry 10). -/
def rejectCheck (s : State) (r : Operands) : DecodeError → Status
  | .nesNoVariant => nesDecodeCheck r.code s
  | .hexNoVariant => hexFormCheck r.code s

/-- A record of no variant raises what its tests find (log entry 10). -/
theorem rejectRecord_eq (e : DecodeError) (r : Operands) (s : State) :
    rejectRecord e r s = raiseError (rejectCheck s r e) s := by
  cases e <;> rfl

/-- A record of no variant ends in the error its tests find. -/
@[simp] theorem rejectRecord_status (e : DecodeError) (r : Operands) (s : State) :
    (rejectRecord e r s).result.status = rejectCheck s r e := by
  rw [rejectRecord_eq, raiseError_result, errorResult_status]

/-- The tests of a record of no variant run at a bad length (30_encoding.md R63). -/
theorem rejectCheck_eq_firstFailure {r : Operands} {e : DecodeError} (h : decode r = .error e) (s : State) :
    (e = .nesNoVariant ∧ rejectCheck s r e = firstFailure s.params.lengthBeforeSymbol true
        (r.code.any fun ch => isWs ch || isDigit ch) .invalidSymbol) ∨
      (e = .hexNoVariant ∧ rejectCheck s r e = firstFailure s.params.lengthBeforeSymbol true
        ((strip r.code).any fun ch => !isHex s.lut ch) .notHexadecimal) := by
  rcases decode_error_cases h with ⟨rfl, -, h6, h8⟩ | ⟨rfl, -, h6, h9⟩
  · have hbad : (!(r.code.length == 6 || r.code.length == 8)) = true := by simp [h6, h8]
    exact .inl ⟨rfl, by rw [rejectCheck, nesDecodeCheck, hbad]⟩
  · have hbad : (!((strip r.code).length == 6 || (strip r.code).length == 9)) = true := by simp [h6, h9]
    exact .inr ⟨rfl, by rw [rejectCheck, hexFormCheck, hbad]⟩

/-- A record of no variant never succeeds (log entry 10). -/
theorem rejectCheck_ne_success {r : Operands} {e : DecodeError} (h : decode r = .error e) (s : State) :
    rejectCheck s r e ≠ .success := by
  have hbad : ∀ lengthFirst charBad (charError : Status), charError ≠ .success →
      firstFailure lengthFirst true charBad charError ≠ .success := by
    intro lengthFirst charBad charError herror
    rcases firstFailure_cases lengthFirst true charBad charError with ⟨-, hlength, -⟩ | ⟨h, -⟩ | ⟨h, -⟩
    · cases hlength
    · rw [h]; nofun
    · rwa [h]
  rcases rejectCheck_eq_firstFailure h s with ⟨-, hcheck⟩ | ⟨-, hcheck⟩ <;> rw [hcheck] <;> exact hbad _ _ _ nofun

/-- Settles O22: a record of no variant has a bad length, so the tests it fails are ordered by the parameter. -/
theorem noVariantRaisesInOrder : Obligations.NoVariantRaisesInOrder := by
  intro s r rest hin hfits
  rw [step_of_op hin]
  refine ⟨fun hdec => ⟨_, present_of_decode_error hfits hdec, rfl, ?_⟩,
    fun hdec => ⟨_, present_of_decode_error hfits hdec, rfl, ?_⟩⟩
  · obtain ⟨-, hcheck⟩ | ⟨he, -⟩ := rejectCheck_eq_firstFailure hdec { s with hostInputs := rest }
    · rw [rejectRecord_status, hcheck, nesClean_iff, Bool.not_eq_false]
      exact firstFailure_badLength _ _ nofun
    · cases he
  · obtain ⟨he, -⟩ | ⟨-, hcheck⟩ := rejectCheck_eq_firstFailure hdec { s with hostInputs := rest }
    · cases he
    · rw [rejectRecord_status, hcheck, any_not_isHex_eq]
      simpa using firstFailure_badLength s.params.lengthBeforeSymbol (!decide (AllHex s.lut (strip r.code)))
        (e := .notHexadecimal) nofun

/-- A presented record that completes runs the operation it selects, or ends in the error its tests find. -/
theorem present_eq_next_cases {r : Operands} {s t : State} (h : present r s = .next t) :
    (∃ i, decode r = .ok i ∧ exec i s = .next t) ∨ (∃ e, decode r = .error e ∧ t = rejectRecord e r s) := by
  rcases present_cases r s with ⟨-, hrefused⟩ | ⟨hfits, -⟩
  · rw [hrefused] at h; cases h
  · cases hdec : decode r with
    | ok i => exact .inl ⟨i, rfl, by rwa [present_of_decode_ok hfits hdec] at h⟩
    | error e =>
      rw [present_of_decode_error hfits hdec] at h
      exact .inr ⟨e, rfl, (Host.Outcome.next.inj h).symm⟩

/-- The errors each operation can end in, by its command word (60_exceptions.md R191 to R196). -/
def statusesOf (cmd : BitVec 3) : List Status :=
  if cmd = 0b000#3 then [.success, .invalidLength, .invalidSymbol]
  else if cmd = 0b001#3 then [.success, .invalidDigit]
  else if cmd = 0b010#3 ∨ cmd = 0b100#3 then [.success, .invalidLength, .notHexadecimal, .ramTargetDeclined]
  else [.notSupported]

/-- An operation ends in a status of its command word (60_exceptions.md R191 to R196). -/
theorem operationCheck_mem (s : State) (i : Instr) : operationCheck s i ∈ statusesOf (encode i).cmd := by
  cases i with
  | nesdec6 code | nesdec8 code => exact nesDecodeCheck_mem code s
  | nesenc6 addr value => exact nesEncodeCheck6_mem addr value s
  | nesenc8 addr value cond => exact nesEncodeCheck8_mem addr value cond s
  | gbdec6 code optin | gbdec9 code optin | geardec6 code optin | geardec9 code optin =>
    exact hexDecodeCheck_mem _ code optin s
  | gbenc | gearenc | rsvddec | rsvdenc => exact List.mem_singleton_self _

/-- A record ends in a status of its command word, whether or not it selects a variant (R191 to R196). -/
theorem status_mem_of_present {r : Operands} {s t : State} (h : present r s = .next t) :
    t.result.status ∈ statusesOf r.cmd := by
  rcases present_eq_next_cases h with ⟨i, hdec, hexec⟩ | ⟨e, hdec, rfl⟩
  · obtain ⟨hcmd, -⟩ := encodeReproducesReadFields s.params r i hdec
    rw [status_of_exec hexec, ← hcmd]
    exact operationCheck_mem s i
  · rw [rejectRecord_status]
    rcases decode_error_cases hdec with ⟨rfl, hcmd, -⟩ | ⟨rfl, hcmd, -⟩
    · rw [hcmd]
      exact nesDecodeCheck_mem r.code s
    · have hmem := List.mem_append_left [Status.ramTargetDeclined] (hexFormCheck_mem r.code s)
      rcases hcmd with hcmd | hcmd <;> rw [hcmd] <;> exact hmem

/-- An operation a record selects never ends in InvalidLength: its code has its variant's length (R191). -/
theorem operationCheck_ne_invalidLength {r : Operands} {i : Instr} (h : Selects r i) (s : State) :
    operationCheck s i ≠ .invalidLength := by
  have hnes : ∀ {code : Str}, code.length = 6 ∨ code.length = 8 → nesDecodeCheck code s ≠ .invalidLength := by
    intro code hlen
    rw [nesDecodeCheck_goodLength hlen]
    split <;> nofun
  have hhex : ∀ {code : Str} {tRam optin}, (strip code).length = 6 ∨ (strip code).length = 9 →
      hexDecodeCheck tRam code optin s ≠ .invalidLength := by
    intro code tRam optin hlen
    rw [hexDecodeCheck_goodLength hlen]
    split
    · split <;> nofun
    · nofun
  cases i with
  | nesdec6 code => obtain ⟨-, -, hlen⟩ := h; exact hnes (.inl hlen)
  | nesdec8 code => obtain ⟨-, -, hlen⟩ := h; exact hnes (.inr hlen)
  | nesenc6 addr value => exact ne_of_mem_of_not_mem (nesEncodeCheck6_mem addr value s) (by decide)
  | nesenc8 addr value cond => exact ne_of_mem_of_not_mem (nesEncodeCheck8_mem addr value cond s) (by decide)
  | gbdec6 code optin | geardec6 code optin => obtain ⟨-, -, -, hlen⟩ := h; exact hhex (.inl hlen)
  | gbdec9 code optin | geardec9 code optin => obtain ⟨-, -, -, hlen⟩ := h; exact hhex (.inr hlen)
  | gbenc | gearenc | rsvddec | rsvdenc => nofun

/-- Settles O53: the statuses of each command word, and InvalidLength only where no variant was selected, because a
selected variant has a good length. -/
theorem errorKindsByCommand : Obligations.ErrorKindsByCommand := by
  intro s t r h
  have hmem := status_mem_of_present h
  refine ⟨fun hcmd => by rwa [hcmd] at hmem, fun hcmd => by rwa [hcmd] at hmem, ?_, fun hlength => ?_⟩
  · rintro (hcmd | hcmd) <;> rwa [hcmd] at hmem
  · rcases present_eq_next_cases h with ⟨i, hdec, hexec⟩ | ⟨e, hdec, -⟩
    · exact absurd ((status_of_exec hexec).symm.trans hlength)
        (operationCheck_ne_invalidLength (selects_of_decode hdec) s)
    · exact ⟨e, hdec⟩

end Sys2Proof.Machine
end

section
/-! Addresses and bytes as their groups (00_scope.md R9): what two joined groups are, and how an address compares with a
multiple of 0x1000. -/

namespace Sys2Proof.Machine

/-- Splitting an address into its groups undoes joining them (R9). -/
theorem addrNibbles_addressOf (outs : List Nibble) :
    addrNibbles (addressOf outs) = [outGroup outs 0, outGroup outs 1, outGroup outs 2, outGroup outs 3] := by
  have hgroup : ∀ n0 n1 n2 n3 : Nibble, addrNibbles (n0 ++ n1 ++ n2 ++ n3) = [n0, n1, n2, n3] := by
    intro n0 n1 n2 n3
    have h0 : (n0 ++ n1 ++ n2 ++ n3).extractLsb' 12 4 = n0 :=
      (BitVec.extractLsb'_append_eq_of_le (by decide)).trans
        ((BitVec.extractLsb'_append_eq_of_le (by decide)).trans BitVec.extractLsb'_append_eq_left)
    have h1 : (n0 ++ n1 ++ n2 ++ n3).extractLsb' 8 4 = n1 :=
      (BitVec.extractLsb'_append_eq_of_le (by decide)).trans
        ((BitVec.extractLsb'_append_eq_of_le (by decide)).trans BitVec.extractLsb'_append_eq_right)
    have h2 : (n0 ++ n1 ++ n2 ++ n3).extractLsb' 4 4 = n2 :=
      (BitVec.extractLsb'_append_eq_of_le (by decide)).trans BitVec.extractLsb'_append_eq_right
    have h3 : (n0 ++ n1 ++ n2 ++ n3).extractLsb' 0 4 = n3 := BitVec.extractLsb'_append_eq_right
    rw [addrNibbles]
    exact congr (congrArg _ h0) (congr (congrArg _ h1) (congr (congrArg _ h2) (congrArg (· :: []) h3)))
  exact hgroup _ _ _ _

/-- Splitting a byte into its groups undoes joining them (R9). -/
theorem byteNibbles_append (n0 n1 : Nibble) : byteNibbles (n0 ++ n1) = [n0, n1] := by
  have h0 : (n0 ++ n1).extractLsb' 4 4 = n0 := BitVec.extractLsb'_append_eq_left
  have h1 : (n0 ++ n1).extractLsb' 0 4 = n1 := BitVec.extractLsb'_append_eq_right
  exact congr (congrArg _ h0) (congrArg (· :: []) h1)

/-- Two bytes are equal exactly when their groups are (R9; 40_common_logic.md R99). -/
theorem append_beq_append (n0 n1 k0 k1 : Nibble) :
    ((n0 ++ n1 : Byte) == (k0 ++ k1 : Byte)) = (n0 == k0 && n1 == k1) := by
  rw [Bool.eq_iff_iff]
  simp only [Bool.and_eq_true, beq_iff_eq]
  refine ⟨fun h => ?_, fun ⟨h0, h1⟩ => by rw [h0, h1]⟩
  simpa [byteNibbles_append] using congrArg byteNibbles h

/-- The value of an address, group by group (R7, R9). -/
theorem toNat_addressOf (outs : List Nibble) :
    (addressOf outs).toNat =
      4096 * (outGroup outs 0).toNat + 256 * (outGroup outs 1).toNat + 16 * (outGroup outs 2).toNat +
        (outGroup outs 3).toNat := by
  simp only [addressOf, BitVec.toNat_append]
  rw [← Nat.shiftLeft_add_eq_or_of_lt (BitVec.isLt _), ← Nat.shiftLeft_add_eq_or_of_lt (BitVec.isLt _),
    ← Nat.shiftLeft_add_eq_or_of_lt (BitVec.isLt _)]
  omega

/-- A multiple of 0x1000 bounds an address exactly when its leading group bounds the address's (R9). -/
theorem le_toNat_addressOf_iff (k : Nibble) (outs : List Nibble) :
    4096 * k.toNat ≤ (addressOf outs).toNat ↔ k ≤ outGroup outs 0 := by
  have h1 := (outGroup outs 1).isLt
  have h2 := (outGroup outs 2).isLt
  have h3 := (outGroup outs 3).isLt
  rw [BitVec.le_def, toNat_addressOf]
  omega

/-- An address lies from 0x8000 on exactly when its leading group is at least 8. -/
theorem le_8000_addressOf_iff (outs : List Nibble) : 0x8000#16 ≤ addressOf outs ↔ 8#4 ≤ outGroup outs 0 :=
  le_toNat_addressOf_iff 8#4 outs

/-- An address lies from 0xC000 on exactly when its leading group is at least 12. -/
theorem le_C000_addressOf_iff (outs : List Nibble) : 0xC000#16 ≤ addressOf outs ↔ 12#4 ≤ outGroup outs 0 :=
  le_toNat_addressOf_iff 12#4 outs

/-- Forcing bit 15 of an address from 0x8000 on changes nothing (41_nes_decode.md R114). -/
theorem or_addressOf_eq_self {outs : List Nibble} (h : 0x8000#16 ≤ addressOf outs) :
    0x8000#16 ||| addressOf outs = addressOf outs := by
  have hnibble : ∀ n : Nibble, 8#4 ≤ n → 0b1000#4 ||| n = n := by decide
  rw [← or_append_eq_or_addressOf, hnibble _ ((le_8000_addressOf_iff outs).1 h)]
  rfl

/-- Every address is the join of its groups (R9). -/
theorem addressOf_addrNibbles (a : BitVec 16) (rest : List Nibble) : addressOf (addrNibbles a ++ rest) = a :=
  append_addrNibbles a

end Sys2Proof.Machine
end

section
/-! NES decode: the replacement code, the ignored bit of symbol 2, and the range of the decoded patches
(41_nes_decode.md R113, R118, R119). -/

namespace Sys2Proof.Machine

/-! ## The replacement code -/

/-- Folding a character first changes nothing of its NES nibble (40_common_logic.md R94). -/
@[simp] theorem nibNes_upcase (m : Memory) (ch : Byte) : nibNes m (upcase ch) = nibNes m ch := by
  rw [nibNes, nibNes, upcase_upcase]

/-- A mapped character folds to the symbol of its nibble (R112; 40_common_logic.md R94). -/
theorem lutSym_nibNes {m : Memory} {ch : Byte} (h : (nibNes m ch).1 = true) :
    lutSym m .nes (nibNes m ch).2 = upcase ch :=
  lutSym_of_lutFind (Prod.ext h rfl)

/-- Mapped characters are neither white space nor digits, since no symbol of ALPHA_NES is (10_state.md R23). -/
theorem nesClean_of_mapped {m : Memory} (hm : LutInvariant m) {code : Str}
    (h : ∀ ch ∈ code, (nibNes m ch).1 = true) : NesClean code := by
  intro ch hch
  obtain ⟨hws, hdigit⟩ := classes_upcase ch
  rw [← hws, ← hdigit, ← lutSym_nibNes (h ch hch)]
  exact ⟨hm.noWhiteSpace .nes _, hm.nesNoDigit _⟩

/-- What the replacement code has for a character is mapped, to the character's own nibble (R112, R113). -/
theorem nibNes_replacement {m : Memory} (hm : LutInvariant m) (ch : Byte) :
    nibNes m (if (nibNes m ch).1 then upcase ch else lutSym m .nes 0#4) = (true, (nibNes m ch).2) := by
  cases h : (nibNes m ch).1 with
  | true => rw [if_pos rfl, nibNes_upcase, ← h]
  | false => rw [if_neg nofun, nibNes_lutSym hm, show (nibNes m ch).2 = 0#4 from (lutFind_miss h).1]

/-- Every character of the replacement code is mapped (R113). -/
theorem mapped_replacementOf {m : Memory} (hm : LutInvariant m) (code : Str) :
    ∀ ch ∈ replacementOf m code, (nibNes m ch).1 = true := by
  intro ch hch
  obtain ⟨c, -, rfl⟩ := List.mem_map.1 hch
  rw [nibNes_replacement hm]

/-- The replacement code has the nibbles of the code it replaces (R112, R113). -/
theorem nesNibbles_replacementOf {m : Memory} (hm : LutInvariant m) (code : Str) :
    nesNibbles m (replacementOf m code) = nesNibbles m code := by
  simp [nesNibbles, replacementOf, Function.comp_def, nibNes_replacement hm]

/-- No character of a mapped code is unmapped (R112). -/
theorem unmappedSymbol_of_mapped {m : Memory} {code : Str} (h : ∀ ch ∈ code, (nibNes m ch).1 = true) :
    unmappedSymbol m code = false :=
  List.any_eq_false.2 fun ch hch => by simp [h ch hch]

/-- Settles O28: the replacement code is mapped, hence clean, and the gather takes the same nibbles from it. -/
theorem replacementDecodesAlike : Obligations.ReplacementDecodesAlike := by
  intro s hm op hop p code t hwf hexec hstatus hinvalid
  have hmapped := mapped_replacementOf hm code
  have hclean := nesClean_of_mapped hm hmapped
  have hnibbles := nesNibbles_replacementOf hm code
  have hlength : (replacementOf s.lut code).length = code.length := List.length_map _
  have hdeliver := eq_deliver_operationRecord hexec hstatus
  simp only [List.mem_cons, List.not_mem_nil, or_false] at hop
  rcases hop with rfl | rfl
  all_goals
    obtain ⟨-, hlen⟩ : Str.fits p code = true ∧ code.length = _ := by simpa [Instr.wellFormed] using hwf
    subst hdeliver
    replace hinvalid : unmappedSymbol s.lut code = true := hinvalid
  · refine ⟨replacementOf s.lut code, _, if_pos hinvalid,
      by rw [exec_nesdec6 (hlength.trans hlen), if_pos hclean], rfl, unmappedSymbol_of_mapped hmapped, ?_⟩
    simp [operationRecord, nesDecodeResult6, hnibbles]
  · refine ⟨replacementOf s.lut code, _, if_pos hinvalid,
      by rw [exec_nesdec8 (hlength.trans hlen), if_pos hclean], rfl, unmappedSymbol_of_mapped hmapped, ?_⟩
    simp [operationRecord, nesDecodeResult8, hnibbles]

/-! ## The ignored bit -/

/-- Flipping bit 0 of a nibble leaves its other bits (00_scope.md R6). -/
theorem nibBit_xor_8 (n : Nibble) :
    nibBit (n ^^^ 0b1000#4) 1 = nibBit n 1 ∧ nibBit (n ^^^ 0b1000#4) 2 = nibBit n 2 ∧
      nibBit (n ^^^ 0b1000#4) 3 = nibBit n 3 := by
  revert n; decide +kernel

/-- The gather of NESDEC6 has no wire from bit 0 of symbol 2 (R114, R115, R118). -/
theorem wired_nesDecode6_flip (k0 k1 k2 k3 k4 k5 : Nibble) :
    wired (nesAddressRows ++ nesValueRows6) [k0, k1, k2 ^^^ 0b1000#4, k3, k4, k5] false =
      wired (nesAddressRows ++ nesValueRows6) [k0, k1, k2, k3, k4, k5] false := by
  simp [wired, nesAddressRows, nesValueRows6, rowValue, wireValue, nibBit_xor_8]

/-- The gather of NESDEC8 has no wire from bit 0 of symbol 2 (R114, R116, R118). -/
theorem wired_nesDecode8_flip (k0 k1 k2 k3 k4 k5 k6 k7 : Nibble) :
    wired (nesAddressRows ++ nesCondValueRows8) [k0, k1, k2 ^^^ 0b1000#4, k3, k4, k5, k6, k7] false =
      wired (nesAddressRows ++ nesCondValueRows8) [k0, k1, k2, k3, k4, k5, k6, k7] false := by
  simp [wired, nesAddressRows, nesCondValueRows8, rowValue, wireValue, nibBit_xor_8]

/-- Replacing a character replaces its nibble (R112). -/
theorem nesNibbles_set (m : Memory) (code : Str) (i : Nat) (ch : Byte) :
    nesNibbles m (code.set i ch) = (nesNibbles m code).set i (nibNes m ch).2 := by
  rw [nesNibbles, List.map_set]; rfl

/-- Replacing one character by a clean one keeps a code clean (R111). -/
theorem nesClean_set {code : Str} {ch : Byte} (hcode : NesClean code) (hch : NesClean [ch]) (i : Nat) :
    NesClean (code.set i ch) := by
  intro c hc
  rcases List.mem_or_eq_of_mem_set hc with hc | rfl
  · exact hcode c hc
  · exact hch c (List.mem_singleton_self c)

/-- Settles O29: both runs deliver the record of their symbols, and the gather drops the one bit in which these
differ. -/
theorem thirdSymbolTopBitIgnored : Obligations.ThirdSymbolTopBitIgnored := by
  intro s code ch hclean hch hflip
  have hclean' := nesClean_set hclean hch 2
  refine ⟨fun hlen => ?_, fun hlen => ?_⟩
  · have hlen' : (code.set 2 ch).length = 6 := (List.length_set ..).trans hlen
    have hwired : wired (nesAddressRows ++ nesValueRows6) (nesNibbles s.lut (code.set 2 ch)) false =
        wired (nesAddressRows ++ nesValueRows6) (nesNibbles s.lut code) false := by
      rw [nesNibbles_set, hflip, nesNibbles_eq_map_range, hlen]
      exact wired_nesDecode6_flip ..
    refine ⟨_, _, by rw [exec_nesdec6 hlen, if_pos hclean], by rw [exec_nesdec6 hlen', if_pos hclean'], rfl, rfl, ?_⟩
    simp [nesDecodeResult6, hwired]
  · have hlen' : (code.set 2 ch).length = 8 := (List.length_set ..).trans hlen
    have hwired : wired (nesAddressRows ++ nesCondValueRows8) (nesNibbles s.lut (code.set 2 ch)) false =
        wired (nesAddressRows ++ nesCondValueRows8) (nesNibbles s.lut code) false := by
      rw [nesNibbles_set, hflip, nesNibbles_eq_map_range, hlen]
      exact wired_nesDecode8_flip ..
    refine ⟨_, _, by rw [exec_nesdec8 hlen, if_pos hclean], by rw [exec_nesdec8 hlen', if_pos hclean'], rfl, rfl, ?_⟩
    simp [nesDecodeResult8, hwired]

/-! ## The range -/

/-- The constant wire of the NES gather puts every address into 0x8000..0xFFFF (R114, R119). -/
theorem le_addressOf_nesDecode (rows : List WireRow) (ins : List Nibble) :
    0x8000#16 ≤ addressOf (wired (nesAddressRows ++ rows) ins false) := by
  have hgroup : ∀ b1 b2 b3 : Bool, 8#4 ≤ group true b1 b2 b3 := by decide +kernel
  exact (le_8000_addressOf_iff _).2 (hgroup _ _ _)

/-- Settles O30: the constant wire gives the range, and encoding the groups of a patch gives a code that decodes to
it. -/
theorem nesPatchesAreTheUpperHalf : Obligations.NesPatchesAreTheUpperHalf := by
  refine ⟨fun s t code hexec hstatus => ?_, fun s hm a v c ha => ⟨?_, ?_⟩⟩
  · rcases hexec with hexec | hexec
    all_goals
      rw [eq_deliver_operationRecord hexec hstatus]
      exact le_addressOf_nesDecode _ _
  · have haddr := addressOf_addrNibbles a (byteNibbles v)
    refine ⟨_, _, length_nesCode .., exec_nesdec6_nesCode hm (addrNibbles a ++ byteNibbles v) false, rfl, rfl, ?_, ?_⟩
    · exact (or_addressOf_eq_self (haddr.symm ▸ ha)).trans haddr
    · exact append_byteNibbles v
  · have haddr := addressOf_addrNibbles a (byteNibbles v ++ byteNibbles c)
    refine ⟨_, _, length_nesCode ..,
      exec_nesdec8_nesCode hm (addrNibbles a ++ (byteNibbles v ++ byteNibbles c)) false, rfl, rfl, ?_, ?_, ?_⟩
    · exact (or_addressOf_eq_self (haddr.symm ▸ ha)).trans haddr
    · exact append_byteNibbles v
    · exact append_byteNibbles c

end Sys2Proof.Machine
end

section
/-! NES encode: every field of its results (42_nes_encode.md R132 to R137), the pair of third symbols (R135), the
ignored address bit (R136), and the round trips with NES decode (R138). -/

namespace Sys2Proof.Machine

/-! ## Every field -/

/-- How NESENC6 ends on good operands (R130, R133). -/
theorem exec_nesenc6_good {addr value : Str} {s : State} (haddr : addr.length = 4) (hvalue : value.length = 2)
    (hhex : AllHex s.lut (addr ++ value)) :
    exec (.nesenc6 addr value) s = .next (s.deliver (nesEncodeResult6 addr value s)) := by
  obtain ⟨hhexAddr, hhexValue⟩ := List.forall_mem_append.1 hhex
  rw [exec_nesenc6, hexOperand_iff.2 ⟨haddr, hhexAddr⟩, hexOperand_iff.2 ⟨hvalue, hhexValue⟩]
  rfl

/-- How NESENC8 ends on good operands (R130, R134). -/
theorem exec_nesenc8_good {addr value cond : Str} {s : State} (haddr : addr.length = 4) (hvalue : value.length = 2)
    (hcond : cond.length = 2) (hhex : AllHex s.lut (addr ++ value ++ cond)) :
    exec (.nesenc8 addr value cond) s = .next (s.deliver (nesEncodeResult8 addr value cond s)) := by
  obtain ⟨hhex6, hhexCond⟩ := List.forall_mem_append.1 hhex
  obtain ⟨hhexAddr, hhexValue⟩ := List.forall_mem_append.1 hhex6
  rw [exec_nesenc8, hexOperand_iff.2 ⟨haddr, hhexAddr⟩, hexOperand_iff.2 ⟨hvalue, hhexValue⟩,
    hexOperand_iff.2 ⟨hcond, hhexCond⟩]
  rfl

/-- Of a successful record with encode codes the host may read every field but ADDR, VALUE and CONDITION (10_state.md
R27). -/
theorem specifiedPart_of_encoded {r : Result} (hstatus : r.status = .success) (hcode : r.primaryCode ≠ none) :
    specifiedPart r = { r with addr := 0#16, value := 0#8, condition := 0#8 } := by
  simp [specifiedPart, hstatus, hcode]

/-- Settles O31: with the digits in order, the rows of the scatter are the bits the statement lists. -/
theorem nesenc6Encodes : Obligations.Nesenc6Encodes := by
  rintro s addr value haddr hvalue hhex a d rfl rfl
  refine ⟨_, exec_nesenc6_good haddr hvalue hhex, fun code hcode => ?_⟩
  rw [deliver_result, specifiedPart_of_encoded rfl (Option.some_ne_none _), nesEncodeResult6, digitNibbles_eq_map_range,
    digitNibbles_eq_map_range, haddr, hvalue, hcode, hcode]
  rfl

/-- Settles O32: as for NESENC6, and noOp compares the bytes nibble by nibble. -/
theorem nesenc8Encodes : Obligations.Nesenc8Encodes := by
  rintro s addr value cond haddr hvalue hcond hhex a d c rfl rfl rfl
  refine ⟨_, exec_nesenc8_good haddr hvalue hcond hhex, fun code hcode => ?_⟩
  rw [deliver_result, specifiedPart_of_encoded rfl (Option.some_ne_none _), nesEncodeResult8, digitNibbles_eq_map_range,
    digitNibbles_eq_map_range, digitNibbles_eq_map_range, haddr, hvalue, hcond, hcode, hcode, ← append_beq_append]
  rfl

/-! ## The pair of third symbols -/

/-- In the fixed alphabet the symbols of two nibbles that differ in bit 0 are one of the eight pairs (R135). -/
theorem alphaNes_pair (b1 b2 b3 : Bool) :
    (alphaNes.getD (group false b1 b2 b3).toNat 0#8, alphaNes.getD (group true b1 b2 b3).toNat 0#8) ∈
      (ascii "APZLGITY").zip (ascii "EOXUKSVN") := by
  revert b1 b2 b3; decide

/-- Setting bit 0 of a nibble adds 8 (00_scope.md R7). -/
theorem group_true_eq_add_8 (b1 b2 b3 : Bool) : group true b1 b2 b3 = group false b1 b2 b3 + 8#4 := by
  revert b1 b2 b3; decide

/-- The two codes of one scatter agree but at index 2, and there hold a pair of the alphabet, primary first (R135). -/
theorem nesCode_pair {m : Memory} (hm : LutFixed m) {last : List WireRow} {digits : List Nibble}
    (hlast : wired last digits true = wired last digits false) :
    ∃ x y, (nesCode m (nesSymbolRows ++ last) digits false).length =
        (nesCode m (nesSymbolRows ++ last) digits true).length ∧
      (∀ i, i ≠ 2 → (nesCode m (nesSymbolRows ++ last) digits false)[i]? =
        (nesCode m (nesSymbolRows ++ last) digits true)[i]?) ∧
      (nesCode m (nesSymbolRows ++ last) digits false)[2]? = some x ∧
      (nesCode m (nesSymbolRows ++ last) digits true)[2]? = some y ∧
      (nibNes m y).2 = (nibNes m x).2 + 8#4 ∧ (x, y) ∈ (ascii "APZLGITY").zip (ascii "EOXUKSVN") := by
  have hinv := lutInvariant_of_fixed hm
  refine ⟨_, _, by simp, fun i => (nesCode_getElem?_eq_iff hinv hlast i).2, rfl, rfl, ?_, ?_⟩
  · rw [nibNes_lutSym hinv, nibNes_lutSym hinv]
    exact group_true_eq_add_8 _ _ _
  · rw [lutSym_nes_of_fixed hm, lutSym_nes_of_fixed hm]
    exact alphaNes_pair _ _ _

/-- Settles O35: a successful encode has delivered the two evaluations of one scatter. -/
theorem primaryAndSiblingPair : Obligations.PrimaryAndSiblingPair := by
  intro s t addr value cond hs hexec hstatus
  rcases hexec with hexec | hexec
  · rw [eq_deliver_operationRecord hexec hstatus]
    obtain ⟨x, y, hpair⟩ := nesCode_pair hs.fixed (last := nesLastRows6)
      (digits := digitNibbles s.lut addr ++ digitNibbles s.lut value) rfl
    exact ⟨_, _, x, y, rfl, rfl, hpair⟩
  · rw [eq_deliver_operationRecord hexec hstatus]
    obtain ⟨x, y, hpair⟩ := nesCode_pair hs.fixed (last := nesLastRows8)
      (digits := digitNibbles s.lut addr ++ digitNibbles s.lut value ++ digitNibbles s.lut cond) rfl
    exact ⟨_, _, x, y, rfl, rfl, hpair⟩

/-! ## The ignored address bit -/

/-- No wire of NESENC6 comes from bit 0 of the first address digit (R132, R133, R136). -/
theorem wired_nesEncode6_flip (n : Nibble) (digits : List Nibble) (dc : Bool) :
    wired (nesSymbolRows ++ nesLastRows6) ((n ^^^ 0b1000#4) :: digits) dc =
      wired (nesSymbolRows ++ nesLastRows6) (n :: digits) dc := by
  simp [wired, nesSymbolRows, nesLastRows6, rowValue, wireValue, nibBit_xor_8, a0, a1, a2, a3, v0, v1]

/-- No wire of NESENC8 comes from bit 0 of the first address digit (R132, R134, R136). -/
theorem wired_nesEncode8_flip (n : Nibble) (digits : List Nibble) (dc : Bool) :
    wired (nesSymbolRows ++ nesLastRows8) ((n ^^^ 0b1000#4) :: digits) dc =
      wired (nesSymbolRows ++ nesLastRows8) (n :: digits) dc := by
  simp [wired, nesSymbolRows, nesLastRows8, rowValue, wireValue, nibBit_xor_8, a0, a1, a2, a3, v0, v1, c0, c1]

/-- The digits of an address after the first, which alone holds bit 15 (R131). -/
def lowerDigits (m : Memory) (addr : Str) : List Nibble := [digitNib m addr 1, digitNib m addr 2, digitNib m addr 3]

/-- The digits of an address are the first and the lower ones (R131). -/
theorem digitNibbles_addr {addr : Str} (haddr : addr.length = 4) (m : Memory) :
    digitNibbles m addr = digitNib m addr 0 :: lowerDigits m addr := by
  rw [digitNibbles_eq_map_range, haddr]; rfl

/-- Settles O37: both addresses pass or fail the test together with the other operands, and the scatter drops the one
bit in which they differ. -/
theorem addressBit15Ignored : Obligations.AddressBit15Ignored := by
  intro s addr addr' value cond haddr haddr' hhex hflip hsame
  obtain ⟨hhexAddr, hhexAddr'⟩ := List.forall_mem_append.1 hhex
  have hdigits : digitNibbles s.lut addr = digitNib s.lut addr 0 :: lowerDigits s.lut addr := digitNibbles_addr haddr _
  have hdigits' : digitNibbles s.lut addr' = (digitNib s.lut addr 0 ^^^ 0b1000#4) :: lowerDigits s.lut addr := by
    rw [digitNibbles_addr haddr', hflip, lowerDigits, lowerDigits, hsame 1 (by simp), hsame 2 (by simp),
      hsame 3 (by simp)]
  have hrecord6 : nesEncodeResult6 addr' value s = nesEncodeResult6 addr value s := by
    simp [nesEncodeResult6, nesCode, hdigits, hdigits', wired_nesEncode6_flip]
  have hrecord8 : nesEncodeResult8 addr' value cond s = nesEncodeResult8 addr value cond s := by
    simp only [nesEncodeResult8, nesCode, hdigits, hdigits', List.cons_append, wired_nesEncode8_flip]
    rfl
  rw [exec_nesenc6, exec_nesenc6, exec_nesenc8, exec_nesenc8, hexOperand_iff.2 ⟨haddr, hhexAddr⟩,
    hexOperand_iff.2 ⟨haddr', hhexAddr'⟩, hrecord6, hrecord8]
  exact ⟨⟨_, _, rfl, rfl, rfl⟩, ⟨_, _, rfl, rfl, rfl⟩⟩

/-! ## Encode, then decode -/

/-- The primary and the sibling are the evaluations of the scatter with either don't-care bit (R135). -/
theorem exists_dc_of_mem {m : Memory} {rows : List WireRow} {digits : List Nibble} {code : Str}
    (h : code ∈ [nesCode m rows digits false, nesCode m rows digits true]) : ∃ dc, code = nesCode m rows digits dc := by
  simpa [Bool.exists_bool] using h

/-- The digits of an operand of two characters, high digit first (R131). -/
theorem digitNibbles_byte {text : Str} (hlen : text.length = 2) (m : Memory) :
    digitNibbles m text = [digitNib m text 0, digitNib m text 1] := by
  rw [digitNibbles_eq_map_range, hlen]; rfl

/-- Settles O38: both codes of an encode decode to the patch its digits spell, with bit 15 of the address forced to 1,
where it stands already. -/
theorem encodeThenDecode : Obligations.EncodeThenDecode := by
  rintro s addr value cond hm haddr hvalue hhex a v ha rfl rfl
  have hforced : ∀ rest : List Nibble, 0x8000#16 ||| addressOf (digitNibbles s.lut addr ++ rest) =
      digitNib s.lut addr 0 ++ digitNib s.lut addr 1 ++ digitNib s.lut addr 2 ++ digitNib s.lut addr 3 := fun rest => by
    rw [digitNibbles_addr haddr]
    exact or_addressOf_eq_self ha
  refine ⟨⟨_, _, _, exec_nesenc6_good haddr hvalue hhex, rfl, rfl, fun code hcode => ?_⟩, fun hcond hhexCond =>
    ⟨_, _, _, exec_nesenc8_good haddr hvalue hcond (List.forall_mem_append.2 ⟨hhex, hhexCond⟩), rfl, rfl,
      fun code hcode => ?_⟩⟩
  · obtain ⟨dc, rfl⟩ := exists_dc_of_mem hcode
    refine ⟨_, exec_nesdec6_nesCode (s := s.deliver (nesEncodeResult6 addr value s)) hm _ dc, rfl, hforced _, ?_, rfl,
      rfl⟩
    rw [digitNibbles_addr haddr, digitNibbles_byte hvalue]
    rfl
  · obtain ⟨dc, rfl⟩ := exists_dc_of_mem hcode
    refine ⟨_, exec_nesdec8_nesCode (s := s.deliver (nesEncodeResult8 addr value cond s)) hm _ dc, rfl, ?_, ?_, rfl, ?_,
      rfl⟩
    · rw [List.append_assoc]
      exact hforced _
    · rw [digitNibbles_addr haddr, digitNibbles_byte hvalue]
      rfl
    · rw [digitNibbles_addr haddr, digitNibbles_byte hvalue, digitNibbles_byte hcond]
      rfl

/-! ## Decode, then encode -/

/-- The scatter of NESENC6 puts the groups NESDEC6 gathered back into the symbols they came from, given bit 0 of symbol
2, which the gather drops (R132, R133, R138). -/
theorem wired_nesEncode6_nesDecode6 (n : Nat → Nibble) :
    wired (nesSymbolRows ++ nesLastRows6) (wired (nesAddressRows ++ nesValueRows6) ((List.range 6).map n) false)
      (nibBit (n 2) 0) = (List.range 6).map n := by
  simp [wired, nesAddressRows, nesValueRows6, nesSymbolRows, nesLastRows6, rowValue, wireValue, nibBit_group,
    group_nibBit, a0, a1, a2, a3, v0, v1, List.range_succ]

/-- As for six letters, where the operands name the value before the condition and the gather of NESDEC8 gives the
condition first (R132, R134, R138). -/
theorem wired_nesEncode8_nesDecode8 (n : Nat → Nibble) {outs : List Nibble}
    (houts : outs = wired (nesAddressRows ++ nesCondValueRows8) ((List.range 8).map n) false) :
    wired (nesSymbolRows ++ nesLastRows8)
      [outGroup outs 0, outGroup outs 1, outGroup outs 2, outGroup outs 3, outGroup outs 6, outGroup outs 7,
        outGroup outs 4, outGroup outs 5]
      (nibBit (n 2) 0) = (List.range 8).map n := by
  subst houts
  simp [wired, nesAddressRows, nesCondValueRows8, nesSymbolRows, nesLastRows8, rowValue, wireValue, nibBit_group,
    group_nibBit, outGroup, a0, a1, a2, a3, v0, v1, c0, c1, List.range_succ]

/-- The digits of a text of hex digits are the groups it writes (R131). -/
theorem digitNibbles_map_hexdigit {m : Memory} (hm : LutInvariant m) (ks : List Nibble) :
    digitNibbles m (ks.map (hexdigit m)) = ks := by
  simp [digitNibbles, Function.comp_def, nibHex_hexdigit hm]

/-- The symbols of the nibbles of mapped characters are the characters in upper case (R135). -/
theorem map_lutSym_nesNibbles {m : Memory} {code : Str} (h : ∀ ch ∈ code, (nibNes m ch).1 = true) :
    (nesNibbles m code).map (lutSym m .nes) = code.map upcase := by
  rw [nesNibbles, List.map_map]
  exact List.map_congr_left fun ch hch => lutSym_nibNes (h ch hch)

/-- The don't-care bit selects a code of NESENC6: the sibling when it is 1, else the primary (R135). -/
theorem nesEncodeResult6_code (addr value : Str) (s : State) (dc : Bool) :
    (if dc = true then (nesEncodeResult6 addr value s).siblingCode else (nesEncodeResult6 addr value s).primaryCode) =
      some ((wired (nesSymbolRows ++ nesLastRows6) (digitNibbles s.lut addr ++ digitNibbles s.lut value) dc).map
        (lutSym s.lut .nes)) := by
  cases dc <;> rfl

/-- The don't-care bit selects a code of NESENC8: the sibling when it is 1, else the primary (R135). -/
theorem nesEncodeResult8_code (addr value cond : Str) (s : State) (dc : Bool) :
    (if dc = true then (nesEncodeResult8 addr value cond s).siblingCode
      else (nesEncodeResult8 addr value cond s).primaryCode) =
      some ((wired (nesSymbolRows ++ nesLastRows8)
        (digitNibbles s.lut addr ++ digitNibbles s.lut value ++ digitNibbles s.lut cond) dc).map
        (lutSym s.lut .nes)) := by
  cases dc <;> rfl

/-- The digits of a 6-letter patch's text are the groups the gather gave (R115; 10_state.md R26). -/
theorem digitNibbles_text6 {s : State} (hm : LutInvariant s.lut) (code : Str) :
    digitNibbles s.lut (addrText s.lut (nesDecodeResult6 code s)) ++
        digitNibbles s.lut (valueText s.lut (nesDecodeResult6 code s)) =
      wired (nesAddressRows ++ nesValueRows6) (nesNibbles s.lut code) false := by
  rw [addrText_eq_map, valueText, byteText_eq_map, digitNibbles_map_hexdigit hm, digitNibbles_map_hexdigit hm,
    nesDecodeResult6, addrNibbles_addressOf, byteAt, byteNibbles_append]
  rfl

/-- The digits of an 8-letter patch's text are the groups the gather gave, the value's before the condition's (R116;
10_state.md R26). -/
theorem digitNibbles_text8 {s : State} (hm : LutInvariant s.lut) (code : Str) {outs : List Nibble}
    (houts : outs = wired (nesAddressRows ++ nesCondValueRows8) (nesNibbles s.lut code) false) :
    digitNibbles s.lut (addrText s.lut (nesDecodeResult8 code s)) ++
        digitNibbles s.lut (valueText s.lut (nesDecodeResult8 code s)) ++
        digitNibbles s.lut (conditionText s.lut (nesDecodeResult8 code s)) =
      [outGroup outs 0, outGroup outs 1, outGroup outs 2, outGroup outs 3, outGroup outs 6, outGroup outs 7,
        outGroup outs 4, outGroup outs 5] := by
  rw [addrText_eq_map, valueText, conditionText, byteText_eq_map, byteText_eq_map, digitNibbles_map_hexdigit hm,
    digitNibbles_map_hexdigit hm, digitNibbles_map_hexdigit hm, nesDecodeResult8, addrNibbles_addressOf, byteAt, byteAt,
    byteNibbles_append, byteNibbles_append, houts]
  rfl

/-- NESENC6 accepts the text of any patch (R130; 10_state.md R26). -/
theorem exec_nesenc6_text {s : State} (hm : LutInvariant s.lut) (r : Result) :
    exec (.nesenc6 (addrText s.lut r) (valueText s.lut r)) s =
      .next (s.deliver (nesEncodeResult6 (addrText s.lut r) (valueText s.lut r) s)) := by
  obtain ⟨haddr, hvalue, -, hhex, -⟩ := patchTextAgreesWithBits s.lut hm r
  exact exec_nesenc6_good haddr hvalue (List.forall_mem_append.1 hhex).1

/-- NESENC8 accepts the text of any conditional patch (R130; 10_state.md R26). -/
theorem exec_nesenc8_text {s : State} (hm : LutInvariant s.lut) (r : Result) :
    exec (.nesenc8 (addrText s.lut r) (valueText s.lut r) (conditionText s.lut r)) s =
      .next (s.deliver (nesEncodeResult8 (addrText s.lut r) (valueText s.lut r) (conditionText s.lut r) s)) := by
  obtain ⟨haddr, hvalue, hcond, hhex, -⟩ := patchTextAgreesWithBits s.lut hm r
  exact exec_nesenc8_good haddr hvalue hcond hhex

/-- Settles O39: the text of the patch has the gathered groups as its digits, which the scatter puts back into the
symbols of the code. -/
theorem decodeThenEncode : Obligations.DecodeThenEncode := by
  intro s code hm hmapped
  have hclean := nesClean_of_mapped hm hmapped
  refine ⟨fun hlen => ?_, fun hlen => ?_⟩
  · have hencode := exec_nesenc6_text (s := s.deliver (nesDecodeResult6 code s)) hm (nesDecodeResult6 code s)
    refine ⟨s.deliver (nesDecodeResult6 code s), _, by rw [exec_nesdec6 hlen, if_pos hclean], hencode, rfl, ?_⟩
    refine (nesEncodeResult6_code _ _ _ _).trans (congrArg some ?_)
    rw [deliver_lut, digitNibbles_text6 hm, ← map_lutSym_nesNibbles hmapped, nesNibbles_eq_map_range, hlen,
      wired_nesEncode6_nesDecode6]
  · have hencode := exec_nesenc8_text (s := s.deliver (nesDecodeResult8 code s)) hm (nesDecodeResult8 code s)
    refine ⟨s.deliver (nesDecodeResult8 code s), _, by rw [exec_nesdec8 hlen, if_pos hclean], hencode, rfl, ?_⟩
    refine (nesEncodeResult8_code _ _ _ _ _).trans (congrArg some ?_)
    rw [deliver_lut, digitNibbles_text8 hm code rfl, ← map_lutSym_nesNibbles hmapped, nesNibbles_eq_map_range, hlen,
      wired_nesEncode8_nesDecode8 _ rfl]

end Sys2Proof.Machine
end

section
/-! Hex decode of nine digits: every field of the result (43_hex_decode.md R155 to R160), the condition as a rotated
byte (R159), and the addresses that count as RAM (R166). -/

namespace Sys2Proof.Machine

/-! ## The condition -/

/-- The condition byte gathered from symbols 6 and 8 (R159). -/
def conditionByte (sym6 sym8 : Nibble) : Byte :=
  group (!nibBit sym8 2) (nibBit sym8 3) (!nibBit sym6 0) (!nibBit sym6 1) ++
    group (!nibBit sym6 2) (nibBit sym6 3) (!nibBit sym8 0) (nibBit sym8 1)

/-- The gathered condition is the byte of symbols 6 and 8, rotated right by two places and XORed with 0xBA (R159). -/
theorem conditionByte_eq_rotateRight (sym6 sym8 : Nibble) :
    conditionByte sym6 sym8 = (sym6 ++ sym8 : Byte).rotateRight 2 ^^^ 0xBA#8 := by
  revert sym6 sym8; decide +kernel

/-! ## Every field -/

/-- The groups gathered from the symbols of a 9-digit code: address, condition, value (R157, R159). -/
theorem wired_hexDecode9 (n : Nat → Nibble) :
    wired (hexAddressRows ++ hexCondRows ++ hexValueRows) ((List.range 9).map n) false =
      [n 5 ^^^ 0b1111#4, n 2, n 3, n 4,
        group (!nibBit (n 8) 2) (nibBit (n 8) 3) (!nibBit (n 6) 0) (!nibBit (n 6) 1),
        group (!nibBit (n 6) 2) (nibBit (n 6) 3) (!nibBit (n 8) 0) (nibBit (n 8) 1), n 0, n 1] := by
  simp [wired, hexAddressRows, hexCondRows, hexValueRows, rowValue, wireValue, group_nibBit, group_not_nibBit]

/-- What the host reads of a successful 9-digit decode (R155 to R160). -/
theorem specifiedPart_hexDecodeResult9 {code : Str} (hlen : (strip code).length = 9) (tRam : Nibble) (s : State) :
    specifiedPart (hexDecodeResult9 tRam code s) =
      { blankResult with
        addr := (hexSym s.lut code 5 ^^^ 0b1111#4) ++ hexSym s.lut code 2 ++ hexSym s.lut code 3 ++ hexSym s.lut code 4
        condition := conditionByte (hexSym s.lut code 6) (hexSym s.lut code 8)
        value := hexSym s.lut code 0 ++ hexSym s.lut code 1
        condValid := true
        noOp := (hexSym s.lut code 0 ++ hexSym s.lut code 1 : Byte) ==
          conditionByte (hexSym s.lut code 6) (hexSym s.lut code 8)
        ramTargeted := decide (hexSym s.lut code 5 < tRam)
        parityMismatch := hexSym s.lut code 7 != hexSym s.lut code 6 ^^^ 0b1000#4
        correctedCode :=
          if hexSym s.lut code 7 = hexSym s.lut code 6 ^^^ 0b1000#4 then none
          else some (dashed (((strip code).map upcase).set 7 (hexdigit s.lut (hexSym s.lut code 6 ^^^ 0b1000#4))))
        displayCode := some (dashed ((strip code).map upcase)) } := by
  rw [specifiedPart_of_decoded rfl rfl, hexDecodeResult9, correctedOf, hexNibble_eq_hexSym _ (by omega),
    hexNibble_eq_hexSym _ (by omega), hexNibble_eq_hexSym _ (by omega), hexNibbles_eq_map_range, hlen,
    wired_hexDecode9, parityFails, expectedParity_eq]
  by_cases hparity : hexSym s.lut code 7 = hexSym s.lut code 6 ^^^ 0b1000#4
  · rw [if_pos hparity, hparity, bne_self_eq_false]
    rfl
  · rw [if_neg hparity, bne_iff_ne.2 hparity]
    rfl

/-- Settles O41 (`hexDecode9` itself is the model's function): both operations end in the one conclusion of hex
decode, at their own thresholds, and a success delivers the record gathered from the nine symbols. -/
theorem hexDecode9EveryField : Obligations.HexDecode9 := by
  rintro op hop s code optin hlen hhex n rfl c v rfl rfl
  refine ⟨_, exec_hexDecode9 hop hlen hhex optin, ?_⟩
  by_cases hdeclined : hexSym s.lut code 5 < op.2 ∧ optin = false
  · rw [if_pos hdeclined]
    exact .inl ⟨hdeclined.1, hdeclined.2, rfl, rfl⟩
  · rw [if_neg hdeclined]
    exact .inr ⟨hdeclined, specifiedPart_hexDecodeResult9 hlen op.2 s⟩

/-- Each 9-digit operation has its threshold (R162, R164). -/
theorem threshold_of_mem9 {op : Str → Bool → Instr} (hop : op ∈ [Instr.gbdec9, Instr.geardec9]) :
    ∃ tRam, (op, tRam) ∈ [(Instr.gbdec9, 8#4), (Instr.geardec9, 4#4)] := by
  simp only [List.mem_cons, List.not_mem_nil, or_false] at hop
  rcases hop with rfl | rfl
  · exact ⟨8#4, by simp⟩
  · exact ⟨4#4, by simp⟩

/-- The condition a 9-digit decode delivers (R159). -/
theorem hexDecodeResult9_condition {code : Str} (hlen : (strip code).length = 9) (tRam : Nibble) (s : State) :
    (hexDecodeResult9 tRam code s).condition = conditionByte (hexSym s.lut code 6) (hexSym s.lut code 8) := by
  rw [hexDecodeResult9, hexNibbles_eq_map_range, hlen, wired_hexDecode9]
  rfl

/-- Settles O45: with the opt-in nothing is declined, and the gather of the condition is a rotation. -/
theorem conditionIsARotation : Obligations.ConditionIsARotation := by
  intro op hop s code hlen hhex
  obtain ⟨tRam, hop⟩ := threshold_of_mem9 hop
  refine ⟨_, (exec_hexDecode9 hop hlen hhex true).trans (by rw [if_neg nofun]), rfl, ?_⟩
  rw [deliver_result, hexDecodeResult9_condition hlen, conditionByte_eq_rotateRight]

/-! ## RAM addresses -/

/-- The leading group of a decoded address is symbol 5 inverted (R157). -/
theorem outGroup_hexAddress (rows : List WireRow) (m : Memory) (code : Str) :
    outGroup (wired (hexAddressRows ++ rows) (hexNibbles m code) false) 0 = hexNibble m code 5 ^^^ 0b1111#4 :=
  group_not_nibBit _

/-- Symbol 5 is below the Game Boy threshold exactly when the address lies from 0x8000 on (R153, R166). -/
theorem ramTarget_gb_iff (rows : List WireRow) (m : Memory) (code : Str) :
    ramTarget gbThreshold (hexNibble m code 5) = true ↔
      0x8000#16 ≤ addressOf (wired (hexAddressRows ++ rows) (hexNibbles m code) false) := by
  have hinverted : ∀ n : Nibble, ramTarget gbThreshold n = true ↔ 8#4 ≤ n ^^^ 0b1111#4 := by decide
  rw [le_8000_addressOf_iff, outGroup_hexAddress, hinverted]

/-- Symbol 5 is below the Game Gear threshold exactly when the address lies from 0xC000 on (R153, R166). -/
theorem ramTarget_gear_iff (rows : List WireRow) (m : Memory) (code : Str) :
    ramTarget gearThreshold (hexNibble m code 5) = true ↔
      0xC000#16 ≤ addressOf (wired (hexAddressRows ++ rows) (hexNibbles m code) false) := by
  have hinverted : ∀ n : Nibble, ramTarget gearThreshold n = true ↔ 12#4 ≤ n ^^^ 0b1111#4 := by decide
  rw [le_C000_addressOf_iff, outGroup_hexAddress, hinverted]

/-- Settles O44: the leading group of the address is symbol 5 inverted, so the threshold on the symbol is one on the
address. -/
theorem ramTargetIsAnAddressClass : Obligations.RamTargetIsAnAddressClass := by
  refine fun s t code optin hstatus => ⟨fun hexec => ?_, fun hexec => ?_⟩
  · rcases hexec with hexec | hexec
    all_goals
      rw [eq_deliver_operationRecord hexec hstatus]
      exact ramTarget_gb_iff _ _ _
  · rcases hexec with hexec | hexec
    all_goals
      rw [eq_deliver_operationRecord hexec hstatus]
      exact ramTarget_gear_iff _ _ _

end Sys2Proof.Machine
end

section
/-! The codes hex decode is a bijection on, digit by digit (43_hex_decode.md R165), and the corrected code (R156). -/

namespace Sys2Proof.Machine

/-! ## Codes of digits -/

/-- A text without dashes is its own stripped form (40_common_logic.md R100). -/
theorem strip_eq_self {text : Str} (h : ∀ ch ∈ text, ch ≠ dash) : strip text = text :=
  List.filter_eq_self.2 fun ch hch => by simpa using h ch hch

/-- Stripping the display form gives the text back (40_common_logic.md R100, R101). -/
theorem strip_dashed {text : Str} (hlen : text.length = 6 ∨ text.length = 9) (h : ∀ ch ∈ text, ch ≠ dash) :
    strip (dashed text) = text := by
  have hfirst : strip (text.take 3) = text.take 3 := strip_eq_self fun ch hch => h ch (List.mem_of_mem_take hch)
  have hsecond : strip (dash :: (text.drop 3).take 3) = (text.drop 3).take 3 :=
    strip_eq_self fun ch hch => h ch (List.mem_of_mem_drop (List.mem_of_mem_take hch))
  have hthird : strip (if text.length = 9 then dash :: text.drop 6 else []) = text.drop 6 := by
    split
    next => exact strip_eq_self fun ch hch => h ch (List.mem_of_mem_drop hch)
    next h9 => rw [List.drop_eq_nil_of_le (by omega)]; rfl
  calc strip (dashed text)
      = strip (text.take 3) ++ strip (dash :: (text.drop 3).take 3) ++
          strip (if text.length = 9 then dash :: text.drop 6 else []) := by
        rw [dashed, strip, List.filter_append, List.filter_append]; rfl
    _ = text.take 3 ++ ((text.drop 3).take 3 ++ (text.drop 3).drop 3) := by
        rw [hfirst, hsecond, hthird, List.append_assoc, List.drop_drop]
    _ = text := by rw [List.take_append_drop, List.take_append_drop]

/-- A text of digits has no dash (10_state.md R23). -/
theorem ne_dash_of_mem_map_hexdigit {m : Memory} (hm : LutInvariant m) {ks : List Nibble} :
    ∀ ch ∈ ks.map (hexdigit m), ch ≠ dash := by
  intro ch hch
  obtain ⟨k, -, rfl⟩ := List.mem_map.1 hch
  exact hm.noDash .hex k

/-- A text of digits is its own stripped form. -/
theorem strip_map_hexdigit {m : Memory} (hm : LutInvariant m) (ks : List Nibble) :
    strip (ks.map (hexdigit m)) = ks.map (hexdigit m) :=
  strip_eq_self (ne_dash_of_mem_map_hexdigit hm)

/-- A symbol of a text of digits is the nibble the digit writes (R155). -/
theorem hexSym_map_hexdigit {m : Memory} (hm : LutInvariant m) {ks : List Nibble} {i : Nat} (hi : i < ks.length) :
    hexSym m (ks.map (hexdigit m)) i = ks.getD i 0#4 := by
  rw [hexSym, strip_map_hexdigit hm]
  simp [hi, nibHex_hexdigit hm]

/-- A text of symbols of the hex table writes some nibbles. -/
theorem exists_eq_map_hexdigit {m : Memory} {code : Str} (h : ∀ ch ∈ code, ∃ k, lutSym m .hex k = ch) :
    ∃ ks : List Nibble, ks.map (hexdigit m) = code :=
  (Set.range_list_map (hexdigit m)).ge h

/-- Where the codes of digits with a property are those of one list of nibbles, exactly one code has it. -/
theorem existsUnique_code {m : Memory} {n : Nat} {P : Str → Prop} {want : List Nibble} (hwant : want.length = n)
    (hP : ∀ ks : List Nibble, ks.length = n → (P (ks.map (hexdigit m)) ↔ ks = want)) :
    ∃! code : Str, code.length = n ∧ (∀ ch ∈ code, ∃ k, lutSym m .hex k = ch) ∧ P code := by
  refine ⟨want.map (hexdigit m), ⟨by simpa using hwant, fun ch hch => ?_, (hP want hwant).2 rfl⟩,
    fun code ⟨hlen, hdigits, hcode⟩ => ?_⟩
  · obtain ⟨k, -, rfl⟩ := List.mem_map.1 hch
    exact ⟨k, rfl⟩
  · obtain ⟨ks, rfl⟩ := exists_eq_map_hexdigit hdigits
    rw [(hP ks (by simpa using hlen)).1 hcode]

/-! ## The nibbles of the code of a patch -/

/-- Inverting a group twice gives it back (R157). -/
theorem xor_15_eq_iff (n k : Nibble) : n ^^^ 0b1111#4 = k ↔ n = k ^^^ 0b1111#4 := by
  revert n k; decide +kernel

/-- An address is given by its groups (00_scope.md R9). -/
theorem addressOf_eq_iff (outs : List Nibble) (a : BitVec 16) :
    addressOf outs = a ↔ [outGroup outs 0, outGroup outs 1, outGroup outs 2, outGroup outs 3] = addrNibbles a := by
  rw [← addrNibbles_addressOf]
  refine ⟨congrArg addrNibbles, fun h => ?_⟩
  rw [← addressOf_addrNibbles a [], ← h, List.append_nil, ← List.append_nil (addrNibbles _), addressOf_addrNibbles]

/-- A byte is given by its groups (00_scope.md R9). -/
theorem append_eq_byte_iff (n0 n1 : Nibble) (b : Byte) : (n0 ++ n1 : Byte) = b ↔ [n0, n1] = byteNibbles b := by
  refine ⟨fun h => by rw [← h, byteNibbles_append], fun h => ?_⟩
  rw [← append_byteNibbles b]
  obtain ⟨h0, h1⟩ : n0 = b.extractLsb' 4 4 ∧ n1 = b.extractLsb' 0 4 := by simpa [byteNibbles] using h
  rw [h0, h1]

/-- The byte of symbols 6 and 8 that gives a condition: the rotation undone (R159). -/
def rotatedCondition (c : Byte) : Byte := (c ^^^ 0xBA#8).rotateLeft 2

/-- One byte of symbols 6 and 8 gives a condition (R159, R165). -/
theorem conditionByte_eq_iff (sym6 sym8 : Nibble) (c : Byte) :
    conditionByte sym6 sym8 = c ↔ [sym6, sym8] = byteNibbles (rotatedCondition c) := by
  have hback : ∀ b : Byte, rotatedCondition (b.rotateRight 2 ^^^ 0xBA#8) = b := by decide +kernel
  have hforth : ∀ c : Byte, (rotatedCondition c).rotateRight 2 ^^^ 0xBA#8 = c := by decide +kernel
  rw [conditionByte_eq_rotateRight, ← append_eq_byte_iff]
  exact ⟨fun h => by rw [← h, hback], fun h => by rw [h, hforth]⟩

/-- The nibbles of the 6-digit code of a patch (R158, R165). -/
def code6Nibbles (a : BitVec 16) (v : Byte) : List Nibble :=
  [v.extractLsb' 4 4, v.extractLsb' 0 4, a.extractLsb' 8 4, a.extractLsb' 4 4, a.extractLsb' 0 4,
    a.extractLsb' 12 4 ^^^ 0b1111#4]

/-- The nibbles of the 9-digit code of a conditional patch with a parity digit (R159, R165). -/
def code9Nibbles (a : BitVec 16) (c v : Byte) (parity : Nibble) : List Nibble :=
  code6Nibbles a v ++
    [(rotatedCondition c).extractLsb' 4 4, parity, (rotatedCondition c).extractLsb' 0 4]

/-- The address and the value are those of a patch exactly when the first six nibbles are its code's (R157, R158). -/
theorem patch_eq_iff (k0 k1 k2 k3 k4 k5 : Nibble) (a : BitVec 16) (v : Byte) :
    ((k5 ^^^ 0b1111#4) ++ k2 ++ k3 ++ k4 : BitVec 16) = a ∧ (k0 ++ k1 : Byte) = v ↔
      [k0, k1, k2, k3, k4, k5] = code6Nibbles a v := by
  have haddr : ((k5 ^^^ 0b1111#4) ++ k2 ++ k3 ++ k4 : BitVec 16) = a ↔
      [k5 ^^^ 0b1111#4, k2, k3, k4] = addrNibbles a := addressOf_eq_iff [k5 ^^^ 0b1111#4, k2, k3, k4] a
  rw [haddr, append_eq_byte_iff, addrNibbles, byteNibbles, code6Nibbles]
  simp only [List.cons.injEq, xor_15_eq_iff, and_true]
  tauto

/-! ## Decoding a code of digits -/

/-- The nibbles of a text of digits are the nibbles it writes (R155). -/
theorem hexNibbles_map_hexdigit {m : Memory} (hm : LutInvariant m) (ks : List Nibble) :
    hexNibbles m (ks.map (hexdigit m)) = ks := by
  simp [hexNibbles, hexSymbols, strip_map_hexdigit hm, Function.comp_def, nibHex_hexdigit hm]

/-- A text of digits is all hex (40_common_logic.md R93). -/
theorem allHex_strip_map_hexdigit {m : Memory} (hm : LutInvariant m) (ks : List Nibble) :
    AllHex m (strip (ks.map (hexdigit m))) := by
  rw [strip_map_hexdigit hm]
  exact fun _ hch => (isHex_and_upcase_of_mem_map_hexdigit hm hch).1

/-- The stripped length of a text of digits is the number of nibbles it writes. -/
theorem length_strip_map_hexdigit {m : Memory} (hm : LutInvariant m) (ks : List Nibble) :
    (strip (ks.map (hexdigit m))).length = ks.length := by
  rw [strip_map_hexdigit hm, List.length_map]

/-- Each 6-digit operation has its threshold (R161, R163). -/
theorem threshold_of_mem6 {op : Str → Bool → Instr} (hop : op ∈ [Instr.gbdec6, Instr.geardec6]) :
    ∃ tRam, (op, tRam) ∈ [(Instr.gbdec6, 8#4), (Instr.geardec6, 4#4)] := by
  simp only [List.mem_cons, List.not_mem_nil, or_false] at hop
  rcases hop with rfl | rfl
  · exact ⟨8#4, by simp⟩
  · exact ⟨4#4, by simp⟩

/-- A 6-digit code of digits decodes, with the opt-in, to the patch whose code its nibbles are (R158, R165). -/
theorem exec_hexDecode6_digits {op : Str → Bool → Instr} (hop : op ∈ [Instr.gbdec6, Instr.geardec6]) {s : State}
    (hm : LutInvariant s.lut) {ks : List Nibble} (hks : ks.length = 6) :
    ∃ r : Result, exec (op (ks.map (hexdigit s.lut)) true) s = .next (s.deliver r) ∧ r.status = .success ∧
      ∀ a v, r.addr = a ∧ r.value = v ↔ ks = code6Nibbles a v := by
  obtain ⟨tRam, hop⟩ := threshold_of_mem6 hop
  have hexec := exec_hexDecode6 hop ((length_strip_map_hexdigit hm ks).trans hks) (allHex_strip_map_hexdigit hm ks) true
  rw [if_neg nofun] at hexec
  refine ⟨_, hexec, rfl, fun a v => ?_⟩
  match ks, hks with
  | [k0, k1, k2, k3, k4, k5], _ =>
    have hwired : wired (hexAddressRows ++ hexValueRows) [k0, k1, k2, k3, k4, k5] false = _ :=
      wired_hexDecode6 ([k0, k1, k2, k3, k4, k5].getD · 0#4)
    rw [← patch_eq_iff, hexDecodeResult6, hexNibbles_map_hexdigit hm, hwired]
    rfl

/-- A 9-digit code of digits decodes, with the opt-in, to the patch whose code with this parity digit its nibbles are,
and mismatches unless the parity digit is symbol 6 with bit 0 flipped (R155, R159, R165). -/
theorem exec_hexDecode9_digits {op : Str → Bool → Instr} (hop : op ∈ [Instr.gbdec9, Instr.geardec9]) {s : State}
    (hm : LutInvariant s.lut) {ks : List Nibble} (hks : ks.length = 9) :
    ∃ r : Result, exec (op (ks.map (hexdigit s.lut)) true) s = .next (s.deliver r) ∧ r.status = .success ∧
      (∀ a c v, r.addr = a ∧ r.condition = c ∧ r.value = v ↔ ks = code9Nibbles a c v (ks.getD 7 0#4)) ∧
      (r.parityMismatch = false ↔ ks.getD 7 0#4 = ks.getD 6 0#4 ^^^ 0b1000#4) := by
  obtain ⟨tRam, hop⟩ := threshold_of_mem9 hop
  have hexec := exec_hexDecode9 hop ((length_strip_map_hexdigit hm ks).trans hks) (allHex_strip_map_hexdigit hm ks) true
  rw [if_neg nofun] at hexec
  refine ⟨_, hexec, rfl, fun a c v => ?_, ?_⟩
  · match ks, hks with
    | [k0, k1, k2, k3, k4, k5, k6, k7, k8], _ =>
      have hwired : wired (hexAddressRows ++ hexCondRows ++ hexValueRows) [k0, k1, k2, k3, k4, k5, k6, k7, k8] false =
          _ := wired_hexDecode9 ([k0, k1, k2, k3, k4, k5, k6, k7, k8].getD · 0#4)
      have hcode : [k0, k1, k2, k3, k4, k5, k6, k7, k8] = code9Nibbles a c v k7 ↔
          [k0, k1, k2, k3, k4, k5] = code6Nibbles a v ∧ [k6, k8] = byteNibbles (rotatedCondition c) := by
        simp only [code9Nibbles, code6Nibbles, byteNibbles, List.cons_append, List.nil_append, List.cons.injEq,
          and_true, true_and]
        tauto
      refine Iff.trans ?_ hcode.symm
      rw [← patch_eq_iff, ← conditionByte_eq_iff, and_assoc, and_comm (a := _ = v), hexDecodeResult9,
        hexNibbles_map_hexdigit hm, hwired]
      rfl
  · simp only [hexDecodeResult9, hexNibble, hexNibbles_map_hexdigit hm, parityFails, expectedParity_eq,
      bne_eq_false_iff_eq]

/-- A property of the next state, where there is one, is a property of the record delivered. -/
theorem exists_next_iff {i : Instr} {s : State} {r : Result} (h : exec i s = .next (s.deliver r)) (P : Result → Prop) :
    (∃ t, exec i s = .next t ∧ P t.result) ↔ P r := by
  simp [h]

/-- Settles O47: a code of symbols writes a list of nibbles, and the gather of hex decode can be read backwards: each
nibble of the code is a group of the patch, inverted or rotated. -/
theorem hexGatherIsABijection : Obligations.HexGatherIsABijection := by
  refine fun s hm a v c => ⟨fun op hop => ?_, fun op hop => ⟨fun x => ?_, ?_⟩⟩
  · refine existsUnique_code (want := code6Nibbles a v) rfl fun ks hks => ?_
    obtain ⟨r, hexec, hstatus, hpatch⟩ := exec_hexDecode6_digits hop hm hks
    rw [← hpatch, exists_next_iff hexec fun r => r.status = .success ∧ r.addr = a ∧ r.value = v]
    exact and_iff_right hstatus
  · refine existsUnique_code (want := code9Nibbles a c v x) rfl fun ks hks => ?_
    obtain ⟨r, hexec, hstatus, hpatch, -⟩ := exec_hexDecode9_digits hop hm hks
    rw [hexSym_map_hexdigit hm (by omega),
      exists_next_iff hexec fun r => r.status = .success ∧ r.addr = a ∧ r.condition = c ∧ r.value = v, hpatch]
    refine ⟨fun ⟨hx, _, hcode⟩ => hx ▸ hcode, fun hcode => ?_⟩
    have hx : ks.getD 7 0#4 = x := by rw [hcode]; rfl
    exact ⟨hx, hstatus, hx.symm ▸ hcode⟩
  · refine existsUnique_code
      (want := code9Nibbles a c v ((rotatedCondition c).extractLsb' 4 4 ^^^ 0b1000#4)) rfl fun ks hks => ?_
    obtain ⟨r, hexec, hstatus, hpatch, hparity⟩ := exec_hexDecode9_digits hop hm hks
    rw [exists_next_iff hexec fun r =>
      r.status = .success ∧ r.parityMismatch = false ∧ r.addr = a ∧ r.condition = c ∧ r.value = v, hpatch, hparity]
    refine ⟨fun ⟨_, hx, hcode⟩ => ?_, fun hcode => ?_⟩
    · have h6 : ks.getD 6 0#4 = (rotatedCondition c).extractLsb' 4 4 := by rw [hcode]; rfl
      rwa [← h6, ← hx]
    · have h6 : ks.getD 6 0#4 = (rotatedCondition c).extractLsb' 4 4 := by rw [hcode]; rfl
      have h7 : ks.getD 7 0#4 = (rotatedCondition c).extractLsb' 4 4 ^^^ 0b1000#4 := by rw [hcode]; rfl
      exact ⟨hstatus, by rw [h6, h7], by rwa [h7]⟩

/-! ## The corrected code -/

/-- A successful 9-digit decode has found hex digits alone and no declined RAM target, and has delivered its record
(R152 to R154). -/
theorem hexDecode9_success {op : Str → Bool → Instr} {tRam : Nibble}
    (hop : (op, tRam) ∈ [(Instr.gbdec9, 8#4), (Instr.geardec9, 4#4)]) {s t : State} {code : Str} {optin : Bool}
    (hlen : (strip code).length = 9) (hexec : exec (op code optin) s = .next t) (hstatus : t.result.status = .success) :
    AllHex s.lut (strip code) ∧ ¬(hexSym s.lut code 5 < tRam ∧ optin = false) ∧
      t = s.deliver (hexDecodeResult9 tRam code s) := by
  have hpassed : hexDecodeCheck tRam code optin s = .success →
      AllHex s.lut (strip code) ∧ ¬(hexSym s.lut code 5 < tRam ∧ optin = false) := by
    intro hcheck
    rw [hexDecodeCheck_goodLength (.inr hlen)] at hcheck
    split at hcheck
    next hhex =>
      split at hcheck
      next => cases hcheck
      next hdeclined => exact ⟨hhex, hdeclined⟩
    next => cases hcheck
  have hcheck := (status_of_exec hexec).symm.trans hstatus
  have hdeliver := eq_deliver_operationRecord hexec hstatus
  simp only [List.mem_cons, Prod.mk.injEq, List.not_mem_nil, or_false] at hop
  rcases hop with ⟨rfl, rfl⟩ | ⟨rfl, rfl⟩ <;> exact and_assoc.1 ⟨hpassed hcheck, hdeliver⟩

/-- The symbols of a hex code have no dash, since folding makes none (R152; 40_common_logic.md R100). -/
theorem ne_dash_of_mem_hexSymbols {code : Str} : ∀ ch ∈ hexSymbols code, ch ≠ dash := by
  intro ch hch
  obtain ⟨c, hc, rfl⟩ := List.mem_map.1 hch
  have hc : c ≠ dash := by simpa using (List.mem_filter.1 hc).2
  exact mt (upcase_eq_dash c).1 hc

/-- Replacing symbol 7 replaces character 9 of the display form (R156). -/
theorem dashed_set_7 {text : Str} (hlen : text.length = 9) (ch : Byte) :
    dashed (text.set 7 ch) = (dashed text).set 9 ch := by
  match text, hlen with
  | [_, _, _, _, _, _, _, _, _], _ => rfl

/-- The symbols of the corrected code: symbol 7 is the digit of symbol 6 with bit 0 flipped (R155, R156). -/
def correctedSymbols (m : Memory) (code : Str) : Str :=
  (hexSymbols code).set 7 (hexdigit m (hexSym m code 6 ^^^ 0b1000#4))

section
variable {m : Memory} {code : Str} (hm : LutInvariant m) (hlen : (strip code).length = 9)

include hlen

/-- A 9-digit code has nine corrected symbols. -/
theorem length_correctedSymbols : (correctedSymbols m code).length = 9 := by
  simpa [correctedSymbols, hexSymbols] using hlen

/-- The corrected code is the display form of the corrected symbols (R156). -/
theorem correctedOf_eq_dashed : correctedOf m code = dashed (correctedSymbols m code) := by
  rw [correctedOf, expectedParity_eq, hexNibble_eq_hexSym m (by omega), correctedSymbols]

include hm

/-- The corrected code has the corrected symbols (R156; 40_common_logic.md R100). -/
theorem strip_correctedOf : strip (correctedOf m code) = correctedSymbols m code := by
  rw [correctedOf_eq_dashed hlen]
  refine strip_dashed (.inr (length_correctedSymbols hlen)) fun ch hch => ?_
  rcases List.mem_or_eq_of_mem_set hch with hch | rfl
  · exact ne_dash_of_mem_hexSymbols ch hch
  · exact hm.noDash .hex _

/-- The corrected symbols are in upper case (R152, R156). -/
theorem map_upcase_strip_correctedOf : (strip (correctedOf m code)).map upcase = correctedSymbols m code := by
  rw [strip_correctedOf hm hlen, correctedSymbols, List.map_set, hexSymbols, List.map_map,
    upcase_hexdigit hm]
  congr 1
  exact List.map_congr_left fun ch _ => upcase_upcase ch

/-- The corrected symbols are hex digits if the symbols were (R152, R156). -/
theorem allHex_strip_correctedOf (hhex : AllHex m (strip code)) : AllHex m (strip (correctedOf m code)) := by
  rw [strip_correctedOf hm hlen]
  intro ch hch
  rcases List.mem_or_eq_of_mem_set hch with hch | rfl
  · obtain ⟨c, hc, rfl⟩ := List.mem_map.1 hch
    rw [isHex_eq, nibHex_upcase]
    exact hhex c hc
  · rw [isHex_eq, nibHex_hexdigit hm]

/-- The nibbles of the corrected code: the parity relation holds, the others are as they were (R155, R156). -/
theorem hexSym_correctedOf {i : Nat} (hi : i < 9) :
    hexSym m (correctedOf m code) i = if i = 7 then hexSym m code 6 ^^^ 0b1000#4 else hexSym m code i := by
  have hsymbols : i < (hexSymbols code).length := by simpa [hexSymbols, hlen] using hi
  rw [hexSym, strip_correctedOf hm hlen, correctedSymbols]
  split
  next h7 => subst h7; simp [hsymbols, nibHex_hexdigit hm]
  next h7 =>
    have hi : i < (strip code).length := by omega
    simp [hexSym, List.getElem_set_ne (Ne.symm h7), hexSymbols, hi]

end

/-- Settles O46: the corrected code has the symbols of the code but for symbol 7, which only the parity relation
reads. -/
theorem correctedCodeDecodesAlike : Obligations.CorrectedCodeDecodesAlike := by
  intro op hop s t p code optin hm hwf hexec hstatus hmismatch
  have hlen : (strip code).length = 9 := by
    simp only [List.mem_cons, List.not_mem_nil, or_false] at hop
    rcases hop with rfl | rfl <;> simp only [Instr.wellFormed, Bool.and_eq_true, beq_iff_eq] at hwf <;> exact hwf.2
  obtain ⟨tRam, hopT⟩ := threshold_of_mem9 hop
  obtain ⟨hhex, hdeclined, rfl⟩ := hexDecode9_success hopT hlen hexec hstatus
  have hsym : ∀ {i}, i < 9 → _ := fun hi => hexSym_correctedOf hm hlen hi
  have hlen' : (strip (correctedOf s.lut code)).length = 9 := by
    rw [strip_correctedOf hm hlen, length_correctedSymbols hlen]
  have hexec' := exec_hexDecode9 (s := s.deliver (hexDecodeResult9 tRam code s)) hopT hlen'
    (allHex_strip_correctedOf hm hlen hhex) optin
  have h5 : hexSym s.lut (correctedOf s.lut code) 5 = hexSym s.lut code 5 := hsym (by decide)
  rw [deliver_lut, h5, if_neg hdeclined] at hexec'
  refine ⟨_, correctedOf s.lut code, _, rfl, if_pos hmismatch, ?_, hexec', ?_⟩
  · rw [correctedOf_eq_dashed hlen, correctedSymbols, dashed_set_7 (by simpa [hexSymbols] using hlen)]
  · rw [deliver_result, deliver_result, specifiedPart_hexDecodeResult9 hlen', specifiedPart_hexDecodeResult9 hlen,
      deliver_lut, map_upcase_strip_correctedOf hm hlen, ← correctedOf_eq_dashed hlen]
    simp [hsym]

end Sys2Proof.Machine
end

section
/-! What the result depends on: not on the case of the operands or the dashes of a hex code (40_common_logic.md R90,
R100), and on nothing of the state but the tables and the parameters (10_state.md R31; 20_memory.md R48;
60_exceptions.md R203); and the flags of a decode (40_common_logic.md R99; 10_state.md R26). -/

namespace Sys2Proof.Machine

/-! ## Case -/

/-- Folding a NES code changes none of its tests (R90; 41_nes_decode.md R110, R111). -/
theorem nesDecodeCheck_map_upcase (code : Str) (s : State) :
    nesDecodeCheck (code.map upcase) s = nesDecodeCheck code s := by
  simp [nesDecodeCheck, List.any_map, Function.comp_def, classes_upcase]

/-- Folding a NES code changes none of its nibbles (R90; 41_nes_decode.md R112). -/
theorem nesNibbles_map_upcase (m : Memory) (code : Str) : nesNibbles m (code.map upcase) = nesNibbles m code := by
  simp [nesNibbles, Function.comp_def]

/-- Folding a NES code leaves unmapped what is unmapped (R90; 41_nes_decode.md R112). -/
theorem unmappedSymbol_map_upcase (m : Memory) (code : Str) :
    unmappedSymbol m (code.map upcase) = unmappedSymbol m code := by
  simp [unmappedSymbol, List.any_map, Function.comp_def]

/-- Folding a NES code changes nothing of its replacement (R90; 41_nes_decode.md R113). -/
theorem replacementField_map_upcase (m : Memory) (code : Str) :
    replacementField m (code.map upcase) = replacementField m code := by
  simp [replacementField, unmappedSymbol_map_upcase, replacementOf, Function.comp_def, upcase_upcase]

/-- Folding an operand of NES encode changes nothing of its test (R90; 42_nes_encode.md R130). -/
theorem hexOperand_map_upcase (m : Memory) (n : Nat) (text : Str) :
    hexOperand m n (text.map upcase) = hexOperand m n text := by
  have hfold : isHex m ∘ upcase = isHex m := funext fun ch => by simp [isHex_eq]
  rw [hexOperand, hexOperand, List.length_map, List.all_map, hfold]

/-- Folding an operand of NES encode changes none of its digits (R90; 42_nes_encode.md R131). -/
theorem digitNibbles_map_upcase (m : Memory) (text : Str) : digitNibbles m (text.map upcase) = digitNibbles m text := by
  simp [digitNibbles, Function.comp_def]

/-- The tests of a hex code's form see its stripped upper-case form alone (43_hex_decode.md R151, R152). -/
theorem hexFormCheck_eq_of_symbols (code : Str) (s : State) :
    hexFormCheck code s =
      firstFailure s.params.lengthBeforeSymbol (!((hexSymbols code).length == 6 || (hexSymbols code).length == 9))
        ((hexSymbols code).any fun ch => !isHex s.lut ch) .notHexadecimal := by
  simp [hexFormCheck, hexSymbols, List.any_map, Function.comp_def, isHex_eq]

/-- Hex decode sees the stripped upper-case form of its code alone (43_hex_decode.md R150, R152). -/
theorem exec_hexDecode_congr {op : Str → Bool → Instr}
    (hop : op ∈ [Instr.gbdec6, Instr.gbdec9, Instr.geardec6, Instr.geardec9]) {code code' : Str}
    (h : hexSymbols code = hexSymbols code') (optin : Bool) (s : State) :
    exec (op code optin) s = exec (op code' optin) s := by
  have hnibble : ∀ i, hexNibble s.lut code i = hexNibble s.lut code' i := by simp [hexNibble, hexNibbles, h]
  have hcheck : ∀ tRam, hexDecodeCheck tRam code optin s = hexDecodeCheck tRam code' optin s := fun tRam => by
    rw [hexDecodeCheck, hexDecodeCheck, hexFormCheck_eq_of_symbols, hexFormCheck_eq_of_symbols code', h, hnibble]
  have hrecord6 : ∀ tRam, hexDecodeResult6 tRam code s = hexDecodeResult6 tRam code' s := fun tRam => by
    simp only [hexDecodeResult6, hexNibbles, h, hnibble]
  have hrecord9 : ∀ tRam, hexDecodeResult9 tRam code s = hexDecodeResult9 tRam code' s := fun tRam => by
    simp only [hexDecodeResult9, hexNibbles, correctedOf, h, hnibble]
  rw [exec_eq_conclude, exec_eq_conclude]
  simp only [List.mem_cons, List.not_mem_nil, or_false] at hop
  rcases hop with rfl | rfl | rfl | rfl <;> simp only [operationCheck, operationRecord, hcheck, hrecord6, hrecord9]

/-- Settles O48: NES decode and encode read every character through a fold, and hex decode reads the stripped and folded
code. -/
theorem caseAndDashesAreFormatting : Obligations.CaseAndDashesAreFormatting := by
  intro s code code' addr value cond optin
  refine ⟨fun op hop => ?_, ?_, ?_, fun h op hop => exec_hexDecode_congr hop h optin s⟩
  · rw [exec_eq_conclude, exec_eq_conclude]
    simp only [List.mem_cons, List.not_mem_nil, or_false] at hop
    rcases hop with rfl | rfl <;>
      simp only [operationCheck, operationRecord, nesDecodeResult6, nesDecodeResult8, nesDecodeCheck_map_upcase,
        nesNibbles_map_upcase, unmappedSymbol_map_upcase, replacementField_map_upcase]
  · simp only [exec_nesenc6, hexOperand_map_upcase, nesEncodeResult6, digitNibbles_map_upcase]
  · simp only [exec_nesenc8, hexOperand_map_upcase, nesEncodeResult8, digitNibbles_map_upcase]

/-! ## Flags -/

/-- Settles O49: a successful decode has delivered its record, which is conditional by its length and then compares the
bytes. -/
theorem noOpOnDecode : Obligations.NoOpOnDecode := by
  intro s t code optin i hi hexec hstatus
  obtain rfl := eq_deliver_operationRecord hexec hstatus
  simp only [List.mem_cons, List.not_mem_nil, or_false] at hi
  rcases hi with rfl | rfl | rfl | rfl | rfl | rfl <;>
    simp [operationRecord, nesDecodeResult6, nesDecodeResult8, hexDecodeResult6, hexDecodeResult9, noop]

/-- Settles O50: of the two flags `invalid` joins, a successful record leaves at 0 the one that is not its own. -/
theorem invalidFlagByOperation : Obligations.InvalidFlagByOperation := by
  intro s t code addr value cond optin hstatus
  refine ⟨fun i hi hexec => ?_, fun i hi hexec => ?_, fun i hi hexec => ?_⟩
  all_goals
    obtain rfl := eq_deliver_operationRecord hexec hstatus
    simp only [List.mem_cons, List.not_mem_nil, or_false] at hi
  · rcases hi with rfl | rfl <;> exact Bool.or_false _
  · rcases hi with rfl | rfl | rfl | rfl <;> exact Bool.false_or _
  · rcases hi with rfl | rfl <;> rfl

/-! ## Two states that agree on the tables and the parameters -/

section
variable {m1 m2 : Memory} (hread : ∀ a : BitVec 5, m1.read a = m2.read a)

include hread

theorem lutSym_congr : lutSym m1 = lutSym m2 := funext₂ fun _ _ => hread _

theorem lutFind_congr : lutFind m1 = lutFind m2 :=
  funext₂ fun _ _ => by rw [lutFind, lutFind, lutSym_congr hread]

theorem nibNes_congr : nibNes m1 = nibNes m2 := funext fun _ => by rw [nibNes, nibNes, lutFind_congr hread]

theorem nibHex_congr : nibHex m1 = nibHex m2 := funext fun _ => by rw [nibHex, nibHex, lutFind_congr hread]

theorem isHex_congr : isHex m1 = isHex m2 := funext fun _ => by rw [isHex_eq, isHex_eq, nibHex_congr hread]

theorem nesNibbles_congr : nesNibbles m1 = nesNibbles m2 :=
  funext fun _ => by rw [nesNibbles, nesNibbles, nibNes_congr hread]

theorem unmappedSymbol_congr : unmappedSymbol m1 = unmappedSymbol m2 :=
  funext fun _ => by rw [unmappedSymbol, unmappedSymbol, nibNes_congr hread]

theorem replacementField_congr : replacementField m1 = replacementField m2 :=
  funext fun _ => by
    rw [replacementField, replacementField, replacementOf, replacementOf, unmappedSymbol_congr hread,
      nibNes_congr hread, lutSym_congr hread]

theorem hexOperand_congr : hexOperand m1 = hexOperand m2 :=
  funext₂ fun _ _ => by rw [hexOperand, hexOperand, isHex_congr hread]

theorem digitNibbles_congr : digitNibbles m1 = digitNibbles m2 :=
  funext fun _ => by rw [digitNibbles, digitNibbles, nibHex_congr hread]

theorem nesCode_congr (rows : List WireRow) : nesCode m1 rows = nesCode m2 rows :=
  funext₂ fun _ _ => by rw [nesCode, nesCode, lutSym_congr hread]

theorem hexNibbles_congr : hexNibbles m1 = hexNibbles m2 :=
  funext fun _ => by rw [hexNibbles, hexNibbles, nibHex_congr hread]

theorem hexNibble_congr : hexNibble m1 = hexNibble m2 :=
  funext₂ fun _ _ => by rw [hexNibble, hexNibble, hexNibbles_congr hread]

theorem correctedOf_congr : correctedOf m1 = correctedOf m2 :=
  funext fun _ => by rw [correctedOf, correctedOf, hexdigit, hexdigit, hexNibble_congr hread, lutSym_congr hread]

end

/-- An error leaves nothing to read that the state could show in (60_exceptions.md R198). -/
theorem specifiedPart_errorResult {e : Status} (he : e ≠ .success) (s1 s2 : State) :
    specifiedPart (errorResult e s1) = specifiedPart (errorResult e s2) := by
  cases e with
  | success => exact absurd rfl he
  | _ => rfl

/-- What the host may read of an operation's end comes from what its tests find and from what it may read of the record
(60_exceptions.md R197, R198). -/
theorem specifiedPart_conclude_congr {r1 r2 : Result} (hr : specifiedPart r1 = specifiedPart r2) (check : Status)
    (s1 s2 : State) :
    specifiedPart (conclude check r1 s1).result = specifiedPart (conclude check r2 s2).result := by
  rcases conclude_cases check r1 s1 with ⟨rfl, h1⟩ | ⟨hcheck, h1⟩
  · exact hr
  · rcases conclude_cases check r2 s2 with ⟨hsuccess, -⟩ | ⟨-, h2⟩
    · exact absurd hsuccess hcheck
    · rw [h1, h2]
      exact specifiedPart_errorResult hcheck s1 s2

section
variable {s1 s2 : State} (hread : ∀ a : BitVec 5, s1.lut.read a = s2.lut.read a)

include hread

/-- What the host may read of a successful record comes from the tables alone (10_state.md R27). -/
theorem specifiedPart_operationRecord_congr (i : Instr) :
    specifiedPart (operationRecord s1 i) = specifiedPart (operationRecord s2 i) := by
  have hhex6 : ∀ tRam code,
      specifiedPart (hexDecodeResult6 tRam code s1) = specifiedPart (hexDecodeResult6 tRam code s2) := by
    intro tRam code
    rw [specifiedPart_of_decoded rfl rfl, specifiedPart_of_decoded rfl rfl]
    simp [hexDecodeResult6, hexNibbles_congr hread, hexNibble_congr hread]
  have hhex9 : ∀ tRam code,
      specifiedPart (hexDecodeResult9 tRam code s1) = specifiedPart (hexDecodeResult9 tRam code s2) := by
    intro tRam code
    rw [specifiedPart_of_decoded rfl rfl, specifiedPart_of_decoded rfl rfl]
    simp [hexDecodeResult9, hexNibbles_congr hread, hexNibble_congr hread, correctedOf_congr hread]
  cases i with
  | nesdec6 code | nesdec8 code =>
    rw [specifiedPart_of_decoded rfl rfl, specifiedPart_of_decoded rfl rfl]
    simp [operationRecord, nesDecodeResult6, nesDecodeResult8, nesNibbles_congr hread, unmappedSymbol_congr hread,
      replacementField_congr hread]
  | nesenc6 addr value | nesenc8 addr value cond =>
    rw [specifiedPart_of_encoded rfl (Option.some_ne_none _), specifiedPart_of_encoded rfl (Option.some_ne_none _)]
    simp [operationRecord, nesEncodeResult6, nesEncodeResult8, nesCode_congr hread, digitNibbles_congr hread]
  | gbdec6 code optin | geardec6 code optin => exact hhex6 _ code
  | gbdec9 code optin | geardec9 code optin => exact hhex9 _ code
  | gbenc | gearenc | rsvddec | rsvdenc => rfl

variable (hparams : s1.params = s2.params)

include hparams

/-- The tests of a hex code's form see the tables and the parameters alone (43_hex_decode.md R151, R152). -/
theorem hexFormCheck_congr (code : Str) : hexFormCheck code s1 = hexFormCheck code s2 := by
  rw [hexFormCheck, hexFormCheck, hparams, isHex_congr hread]

/-- The tests of an operation see the tables and the parameters alone (60_exceptions.md R199). -/
theorem operationCheck_congr (i : Instr) : operationCheck s1 i = operationCheck s2 i := by
  have hhex : ∀ tRam code optin, hexDecodeCheck tRam code optin s1 = hexDecodeCheck tRam code optin s2 := by
    intro tRam code optin
    rw [hexDecodeCheck, hexDecodeCheck, hexFormCheck_congr hread hparams, hexNibble_congr hread]
  cases i with
  | nesdec6 code | nesdec8 code => simp only [operationCheck, nesDecodeCheck, hparams]
  | nesenc6 addr value => rw [operationCheck, operationCheck, nesEncodeCheck6, nesEncodeCheck6, hexOperand_congr hread]
  | nesenc8 addr value cond =>
    rw [operationCheck, operationCheck, nesEncodeCheck8, nesEncodeCheck8, hexOperand_congr hread]
  | gbdec6 code optin | gbdec9 code optin | geardec6 code optin | geardec9 code optin => exact hhex _ code optin
  | gbenc | gearenc | rsvddec | rsvdenc => rfl

/-- What the host may read after presenting a record comes from the record, the tables and the parameters (10_state.md
R31). -/
theorem specifiedPart_present_congr {r : Operands} {t1 t2 : State} (h1 : present r s1 = .next t1)
    (h2 : present r s2 = .next t2) : specifiedPart t1.result = specifiedPart t2.result := by
  rcases present_eq_next_cases h1 with ⟨i, hdec, h1⟩ | ⟨e, hdec, rfl⟩
  · rcases present_eq_next_cases h2 with ⟨j, hdec', h2⟩ | ⟨e, hdec', -⟩
    · obtain rfl := Except.ok.inj (hdec.symm.trans hdec')
      obtain rfl := Host.Outcome.next.inj ((exec_eq_conclude i s1).symm.trans h1)
      obtain rfl := Host.Outcome.next.inj ((exec_eq_conclude i s2).symm.trans h2)
      rw [operationCheck_congr hread hparams]
      exact specifiedPart_conclude_congr (specifiedPart_operationRecord_congr hread i) _ s1 s2
    · rw [hdec] at hdec'; cases hdec'
  · rcases present_eq_next_cases h2 with ⟨j, hdec', -⟩ | ⟨e', hdec', rfl⟩
    · rw [hdec] at hdec'; cases hdec'
    · obtain rfl := Except.error.inj (hdec.symm.trans hdec')
      have hcheck : rejectCheck s1 r e = rejectCheck s2 r e := by
        cases e with
        | nesNoVariant => simp only [rejectCheck, nesDecodeCheck, hparams]
        | hexNoVariant => exact hexFormCheck_congr hread hparams r.code
      rw [rejectRecord_eq, rejectRecord_eq, hcheck]
      exact specifiedPart_errorResult (rejectCheck_ne_success hdec s2) s1 s2

end

/-- Settles O56: a step on a presented record presents it, and the tests and the record of its operation are computed
from the tables and the parameters alone. -/
theorem historyIndependence : Obligations.HistoryIndependence := by
  intro s1 s2 t1 t2 r rest1 rest2 hread hparams hin1 hin2 h1 h2
  rw [step_of_op hin1] at h1
  rw [step_of_op hin2] at h2
  exact specifiedPart_present_congr (s1 := { s1 with hostInputs := rest1 }) (s2 := { s2 with hostInputs := rest2 })
    hread hparams h1 h2

/-- A presented record that completes fits its ports and changes only the result (10_state.md R24, R31). -/
theorem present_frame {r : Operands} {s t : State} (h : present r s = .next t) :
    r.presentable s.params = true ∧ t.lut = s.lut ∧ t.params = s.params ∧ t.hostInputs = s.hostInputs ∧
      t.completed = true := by
  rcases present_cases r s with ⟨-, hrefused⟩ | ⟨hfits, q, hq⟩
  · rw [hrefused] at h; cases h
  · obtain rfl := Host.Outcome.next.inj (hq.symm.trans h)
    exact ⟨hfits, rfl, rfl, rfl, rfl⟩

/-- Settles O57: the first operation leaves the tables and the parameters as they are, and the second sees nothing
else. -/
theorem failedOperationLeavesNoTrace : Obligations.FailedOperationLeavesNoTrace := by
  intro s t u first second rest hin hfirst hsecond
  rw [step_of_op hin] at hfirst
  obtain ⟨-, hlut, hparams, hinputs, -⟩ := present_frame hfirst
  rw [step_of_op hinputs] at hsecond
  obtain ⟨hfits, hlutU, hparamsU, hinputsU, hcompletedU⟩ := present_frame hsecond
  rcases present_cases second { s with hostInputs := rest } with ⟨hbig, -⟩ | ⟨-, q, hw⟩
  · rw [hparams] at hfits
    exact absurd (hfits.symm.trans hbig) nofun
  · refine ⟨_, (step_of_op rfl).trans hw, ?_, hlutU.trans hlut, hparamsU.trans hparams, hinputsU, hcompletedU⟩
    exact specifiedPart_present_congr (s1 := { t with hostInputs := rest }) (s2 := { s with hostInputs := rest })
      (fun a => by rw [hlut]) hparams hsecond hw

end Sys2Proof.Machine
end

section
/-! Every step keeps the invariant: the records an operation can leave are coherent and fit LMAX (10_state.md R26;
00_scope.md R10), and no step writes the tables but a reset (10_state.md R24). -/

namespace Sys2Proof.Machine

/-! ## Records that may stand in a state of the invariant -/

/-- What the invariant asks of a record the host may read: its strings fit, and it is coherent. -/
structure RecordGood (lmax : Nat) (r : Result) : Prop where
  strings : StringsFit lmax r
  coherent : ResultCoherent r

/-- The five strings of a record (10_state.md R26). -/
theorem stringsFit_iff {lmax : Nat} {r : Result} :
    StringsFit lmax r ↔
      (∀ text ∈ r.replacementCode, text.length ≤ lmax) ∧ (∀ text ∈ r.correctedCode, text.length ≤ lmax) ∧
        (∀ text ∈ r.displayCode, text.length ≤ lmax) ∧ (∀ text ∈ r.primaryCode, text.length ≤ lmax) ∧
        (∀ text ∈ r.siblingCode, text.length ≤ lmax) := by
  simp only [StringsFit, List.forall_mem_cons, List.not_mem_nil, false_implies, implies_true, and_true]

/-- The strings of a clipped record fit (00_scope.md R10). -/
theorem stringsFit_clipStrings (lmax : Nat) (r : Result) : StringsFit lmax (clipStrings lmax r) := by
  have hclip : ∀ o : Option Str, ∀ text ∈ o.map (·.take lmax), text.length ≤ lmax := by
    intro o text htext
    obtain ⟨whole, -, rfl⟩ := Option.mem_map.1 htext
    exact List.length_take_le lmax whole
  exact stringsFit_iff.2 ⟨hclip _, hclip _, hclip _, hclip _, hclip _⟩

/-- The record an error leaves is good: its strings are clipped, and RamTargetDeclined sets its flag (60_exceptions.md
R198). -/
theorem recordGood_errorResult {e : Status} (he : e ≠ .success) (s : State) :
    RecordGood s.params.lmax (errorResult e s) := by
  have hstrings := stringsFit_clipStrings s.params.lmax (Config.freeResult s.draw)
  cases e with
  | success => exact absurd rfl he
  | _ => exact ⟨hstrings, nofun, by simp [errorResult]⟩

/-- A good record of success (10_state.md R26). -/
theorem RecordGood.of_success {lmax : Nat} {r : Result} (hstatus : r.status = .success) (hstrings : StringsFit lmax r)
    (hcoherent : SuccessCoherent r) : RecordGood lmax r :=
  ⟨hstrings, fun _ => hcoherent, fun hdeclined => absurd (hstatus.symm.trans hdeclined) nofun⟩

/-! ## The records of NES decode -/

/-- The replacement code is present exactly when a symbol is unmapped (41_nes_decode.md R113). -/
theorem replacementField_isSome (m : Memory) (code : Str) :
    (replacementField m code).isSome = unmappedSymbol m code := by
  cases h : unmappedSymbol m code <;> simp [replacementField, h]

/-- The replacement code is as long as the code (41_nes_decode.md R113). -/
theorem length_of_mem_replacementField {m : Memory} {code text : Str} (h : text ∈ replacementField m code) :
    text.length = code.length := by
  unfold replacementField at h
  split at h
  next =>
    obtain rfl : replacementOf m code = text := by simpa using h
    exact List.length_map _
  next => cases h

section
variable {code : Str} {s : State} (hlen : code.length ≤ s.params.lmax)

include hlen

/-- Both records of NES decode are good: their one string is the replacement code, and the gather's constant wire gives
the range of the address (41_nes_decode.md R113, R119). -/
theorem recordGood_nesDecodeResult :
    ∀ r ∈ [nesDecodeResult6 code s, nesDecodeResult8 code s], RecordGood s.params.lmax r := by
  simp only [List.forall_mem_cons, List.not_mem_nil, false_implies, implies_true, and_true]
  have hreplacement : ∀ text ∈ replacementField s.lut code, text.length ≤ s.params.lmax := fun _ htext =>
    (length_of_mem_replacementField htext).trans_le hlen
  constructor
  all_goals
    refine .of_success rfl (stringsFit_iff.2 ⟨hreplacement, nofun, nofun, nofun, nofun⟩) ?_
    exact {
      replacement := replacementField_isSome s.lut code
      corrected := rfl
      parityNeedsCondition := nofun
      decodeNoOp := fun _ => rfl
      encodePair := rfl
      encodeFlags := nofun
      siblings := nofun
      hexFlags := nofun
      nesPatch := fun _ _ => ⟨le_addressOf_nesDecode _ _, rfl, rfl⟩ }

end

/-! ## The records of NES encode -/

/-- The two codes of an encode are equally long and agree outside index 2 (42_nes_encode.md R139). -/
theorem siblings_nesCode (m : Memory) {last : List WireRow} {digits : List Nibble}
    (hlast : wired last digits true = wired last digits false) :
    ∀ p ∈ some (nesCode m (nesSymbolRows ++ last) digits false),
      ∀ q ∈ some (nesCode m (nesSymbolRows ++ last) digits true),
        p.length = q.length ∧ ∀ i, i ≠ 2 → p[i]? = q[i]? := by
  rintro _ ⟨⟩ _ ⟨⟩
  refine ⟨by simp, fun i hi => ?_⟩
  rw [nesCode_true_eq_set m hlast, List.getElem?_set_ne hi.symm]

/-- A code of a table of eight rows or fewer fits the least LMAX (00_scope.md R5). -/
theorem length_of_mem_nesCode {m : Memory} {rows : List WireRow} {digits : List Nibble} {dc : Bool} {lmax : Nat}
    (hrows : rows.length ≤ lmax) : ∀ text ∈ some (nesCode m rows digits dc), text.length ≤ lmax := by
  rintro _ ⟨⟩
  rwa [length_nesCode]

section
variable {s : State} (hlmax : 11 ≤ s.params.lmax)

include hlmax

/-- Both records of NES encode are good: their strings are the two codes of one scatter (42_nes_encode.md R139). -/
theorem recordGood_nesEncodeResult (addr value cond : Str) :
    ∀ r ∈ [nesEncodeResult6 addr value s, nesEncodeResult8 addr value cond s], RecordGood s.params.lmax r := by
  simp only [List.forall_mem_cons, List.not_mem_nil, false_implies, implies_true, and_true]
  have hrows6 : (nesSymbolRows ++ nesLastRows6).length ≤ s.params.lmax := le_trans (by decide) hlmax
  have hrows8 : (nesSymbolRows ++ nesLastRows8).length ≤ s.params.lmax := le_trans (by decide) hlmax
  refine ⟨.of_success rfl (stringsFit_iff.2
      ⟨nofun, nofun, nofun, length_of_mem_nesCode hrows6, length_of_mem_nesCode hrows6⟩) ?_,
    .of_success rfl (stringsFit_iff.2
      ⟨nofun, nofun, nofun, length_of_mem_nesCode hrows8, length_of_mem_nesCode hrows8⟩) ?_⟩
  all_goals exact {
    replacement := rfl
    corrected := rfl
    parityNeedsCondition := nofun
    decodeNoOp := nofun
    encodePair := rfl
    encodeFlags := fun _ => ⟨rfl, rfl, rfl, rfl, rfl⟩
    siblings := siblings_nesCode s.lut rfl
    hexFlags := nofun
    nesPatch := nofun }

/-! ## The records of hex decode -/

omit hlmax in
/-- The display form of nine characters or fewer fits the least LMAX (40_common_logic.md R101; 00_scope.md R5). -/
theorem length_dashed_le {text : Str} (h : text.length ≤ 9) : (dashed text).length ≤ 11 := by
  simp only [dashed, List.length_append, List.length_take, List.length_cons, List.length_drop]
  split <;> simp <;> omega

variable {code : Str} (hlen : (strip code).length ≤ 9)

include hlen

/-- The display code fits LMAX (43_hex_decode.md R160). -/
theorem length_displayCode_le : ∀ text ∈ some (dashed (hexSymbols code)), text.length ≤ s.params.lmax := by
  rintro _ ⟨⟩
  exact (length_dashed_le (by simpa [hexSymbols] using hlen)).trans hlmax

/-- The record of a 6-digit decode is good (43_hex_decode.md R158, R160). -/
theorem recordGood_hexDecodeResult6 (tRam : Nibble) : RecordGood s.params.lmax (hexDecodeResult6 tRam code s) := by
  refine .of_success rfl (stringsFit_iff.2 ⟨nofun, nofun, length_displayCode_le hlmax hlen, nofun, nofun⟩) ?_
  exact {
    replacement := rfl
    corrected := rfl
    parityNeedsCondition := nofun
    decodeNoOp := fun _ => rfl
    encodePair := rfl
    encodeFlags := nofun
    siblings := nofun
    hexFlags := fun _ => rfl
    nesPatch := nofun }

/-- The record of a 9-digit decode is good: it holds a corrected code exactly on a parity mismatch (43_hex_decode.md
R156, R159, R160). -/
theorem recordGood_hexDecodeResult9 (tRam : Nibble) : RecordGood s.params.lmax (hexDecodeResult9 tRam code s) := by
  have hcorrected : ∀ mismatch : Bool,
      ∀ text ∈ if mismatch then some (correctedOf s.lut code) else none, text.length ≤ s.params.lmax := by
    rintro (_ | _) _ ⟨⟩
    exact (length_dashed_le (by simpa [hexSymbols] using hlen)).trans hlmax
  refine .of_success rfl
    (stringsFit_iff.2 ⟨nofun, hcorrected _, length_displayCode_le hlmax hlen, nofun, nofun⟩) ?_
  exact {
    replacement := rfl
    corrected := by
      simp only [hexDecodeResult9]
      split <;> simp [*]
    parityNeedsCondition := fun _ => rfl
    decodeNoOp := fun _ => rfl
    encodePair := rfl
    encodeFlags := nofun
    siblings := nofun
    hexFlags := fun _ => rfl
    nesPatch := nofun }

end

/-! ## Every operation, every step -/

/-- Tests of a form that find nothing have found a good length (60_exceptions.md R199). -/
theorem lengthBad_of_firstFailure {lengthFirst lengthBad charBad : Bool} {e : Status} (he : e ≠ .success)
    (h : firstFailure lengthFirst lengthBad charBad e = .success) : lengthBad = false := by
  rcases firstFailure_cases lengthFirst lengthBad charBad e with ⟨-, hgood, -⟩ | ⟨hlength, -⟩ | ⟨hchar, -⟩
  · exact hgood
  · exact absurd (hlength.symm.trans h) nofun
  · exact absurd (hchar.symm.trans h) he

/-- A NES decode that succeeds has a code of at most eight characters (41_nes_decode.md R110). -/
theorem length_le_of_nesDecodeCheck {code : Str} {s : State} (h : nesDecodeCheck code s = .success) :
    code.length ≤ 8 := by
  have hgood := lengthBad_of_firstFailure (e := .invalidSymbol) nofun h
  simp only [Bool.not_eq_false', Bool.or_eq_true, beq_iff_eq] at hgood
  omega

/-- A hex decode that succeeds has a stripped code of at most nine characters (43_hex_decode.md R151). -/
theorem length_le_of_hexDecodeCheck {tRam : Nibble} {code : Str} {optin : Bool} {s : State}
    (h : hexDecodeCheck tRam code optin s = .success) : (strip code).length ≤ 9 := by
  have hform : hexFormCheck code s = .success := by
    by_contra hform
    exact hform ((hexDecodeCheck_of_form hform rfl).symm.trans h)
  have hgood := lengthBad_of_firstFailure (e := .notHexadecimal) nofun hform
  simp only [Bool.not_eq_false', Bool.or_eq_true, beq_iff_eq] at hgood
  omega

/-- The record an operation delivers when its tests find nothing is good (10_state.md R26). -/
theorem recordGood_operationRecord {s : State} {i : Instr} (hlmax : 11 ≤ s.params.lmax)
    (hcheck : operationCheck s i = .success) : RecordGood s.params.lmax (operationRecord s i) := by
  cases i with
  | nesdec6 code | nesdec8 code =>
    have hlen : code.length ≤ s.params.lmax := (length_le_of_nesDecodeCheck hcheck).trans (le_trans (by decide) hlmax)
    exact recordGood_nesDecodeResult hlen _ (by simp [operationRecord])
  | nesenc6 addr value => exact recordGood_nesEncodeResult hlmax addr value [] _ (by simp [operationRecord])
  | nesenc8 addr value cond => exact recordGood_nesEncodeResult hlmax addr value cond _ (by simp [operationRecord])
  | gbdec6 code optin | geardec6 code optin =>
    exact recordGood_hexDecodeResult6 hlmax (length_le_of_hexDecodeCheck hcheck) _
  | gbdec9 code optin | geardec9 code optin =>
    exact recordGood_hexDecodeResult9 hlmax (length_le_of_hexDecodeCheck hcheck) _
  | gbenc | gearenc | rsvddec | rsvdenc => cases hcheck

/-- A presented record leaves a good record, whether it selects a variant or not and whether it succeeds or fails. -/
theorem recordGood_of_present {r : Operands} {s t : State} (hlmax : 11 ≤ s.params.lmax) (h : present r s = .next t) :
    RecordGood s.params.lmax t.result := by
  rcases present_eq_next_cases h with ⟨i, -, hexec⟩ | ⟨e, hdec, rfl⟩
  · obtain rfl := Host.Outcome.next.inj ((exec_eq_conclude i s).symm.trans hexec)
    rcases conclude_cases (operationCheck s i) (operationRecord s i) s with ⟨hcheck, hend⟩ | ⟨hcheck, hend⟩
    · rw [hend]
      exact recordGood_operationRecord hlmax hcheck
    · rw [hend]
      exact recordGood_errorResult hcheck s
  · rw [rejectRecord_eq]
    exact recordGood_errorResult (rejectCheck_ne_success hdec s) s

/-- Settles O4: a wait changes nothing, a reset empties the list of the lookup RAM and leaves a clipped record that may
not be read, and a presented record leaves a good record and nothing else. -/
theorem stepKeepsInvariant : Obligations.StepKeepsInvariant := by
  intro s t hs h
  rcases step_cases h with ⟨-, rfl⟩ | ⟨rest, -, rfl⟩ | ⟨r, rest, q, -, -, hpresent, rfl⟩
  · exact hs
  · exact {
      canonical := wf_nil
      fixed := read_nil
      params := hs.params
      strings := stringsFit_clipStrings _ _
      coherent := nofun }
  · have hgood := recordGood_of_present (s := { s with hostInputs := rest }) hs.params hpresent
    exact {
      canonical := hs.canonical
      fixed := hs.fixed
      params := hs.params
      strings := hgood.strings
      coherent := fun _ => hgood.coherent }

end Sys2Proof.Machine
end
